-- ==== Sys2Proof/Word.lean ====
section
/-! DEFINITION. The fixed-width words of the block (R14) and their plainest arithmetic. -/

namespace Sys2Proof

/-- Command and result words have 16 bits (R14, R73); so has TXSR (R38). -/
abbrev Word := BitVec 16

/-- Ring bytes, RXACC and TUNE_LO have 8 bits (R14). -/
abbrev Byte := BitVec 8

end Sys2Proof
end

