-- ==== Sys2Proof/Config.lean ====
section
/-! DEFINITION. The implementation parameters of 00_scope.md R6 to R13, as one configuration record, and the model's
one free value. The parameters are constants for a launch: no step writes them. -/

namespace Sys2Proof

/-- R11: the direction test of the calibration loop (90_conflicts.md C2). -/
inductive CalSense where
  | convergent
  | asWritten
  deriving DecidableEq, Repr

/-- R8: the bit timing is derived from `F_OSC` and `BAUD`, or `TPB` and `TPHB` are given directly. -/
inductive BitTiming where
  | derived (fOsc baud : Nat)
  | given (tpb tphb : Nat)
  deriving DecidableEq, Repr

/-- The parameters of R6 to R13. "The parameters are constants for a launch ... A model takes them as one
configuration record." The fields of fixed width cannot leave their range (R12's last point). -/
structure Config where
  /-- R6 `TIMER_W` -/
  timerW : Nat
  /-- R7, R8 `F_OSC` and `BAUD`, or `TPB` and `TPHB` -/
  timing : BitTiming
  /-- R9 `RING_CAP` -/
  ringCap : Nat
  /-- R10 `STOP_BITS` -/
  stopBits : Nat
  /-- R11 `CAL_ENABLED` -/
  calEnabled : Bool
  /-- R11 `CAL_PRESET_LO` -/
  calPresetLo : BitVec 8
  /-- R11 `CAL_PRESET_HI` -/
  calPresetHi : BitVec 4
  /-- R11 `TARGET_DELTA` -/
  targetDelta : Nat
  /-- R11 `CAL_REFDIV` -/
  calRefdiv : BitVec 2
  /-- R11 `CAL_MAX_ITER` -/
  calMaxIter : Option Nat
  /-- R11 `CAL_SENSE` -/
  calSense : CalSense
  /-- R13 `TUNE_LO_RST` -/
  tuneLoRst : BitVec 8
  /-- R13 `TUNE_HI_RST` -/
  tuneHiRst : BitVec 4
  /-- R13 `REFDIV_RST` -/
  refdivRst : BitVec 2
  /-- R13 `DIAG_PIN`: "has no effect on any rule" -/
  diagPin : Bool
  deriving DecidableEq, Repr

/-- R8: ticks per bit period, `TPB = floor(F_OSC / BAUD)` or given. -/
def Config.tpb (c : Config) : Nat :=
  match c.timing with
  | .derived fOsc baud => fOsc / baud
  | .given tpb _ => tpb

/-- R8: ticks per half bit period, `TPHB = floor(TPB / 2)` or given. -/
def Config.tphb (c : Config) : Nat :=
  match c.timing with
  | .derived fOsc baud => fOsc / baud / 2
  | .given _ tphb => tphb

/-- The parameters of State.reset. DESIGN CHOICE (notes/assumptions/2.md), unsafe: the spec leaves every one of them
open; these are the example values of 95_test_vectors.md section 0. No statement but the tests rests on them. -/
def Config.example95 : Config where
  timerW := 16
  timing := .given 8 4
  ringCap := 4
  stopBits := 1
  calEnabled := true
  calPresetLo := 0x8D#8
  calPresetHi := 0xF#4
  targetDelta := 100
  calRefdiv := 3#2
  calMaxIter := some 16
  calSense := .convergent
  tuneLoRst := 0xFE#8
  tuneHiRst := 0x7#4
  refdivRst := 0#2
  diagPin := false

/-- FREE VALUE (notes/assumptions/11.md): what LAST_CAP reads as while it holds no value (R43: "Reset value: no
value"). Nothing in Lean can evaluate it; it is applied to the counter `freeCount` of State. No reachable state reads
it. -/
opaque freeCapture : Nat → Nat

end Sys2Proof
end

