-- ==== Sys2Proof/Syntax.lean ====
section
/-! DEFINITION. The instructions: one constructor per row of spec/opcode_table.json, the twelve host commands of R91
and the eleven internal steps of R99. -/

namespace Sys2Proof

/-- The two inputs the environment drives (R52), and the two settings of CCIS1 (R36). -/
inductive InputLine where
  | rxd
  | ref
  deriving DecidableEq, Repr

/-- The commands (R91) and the internal steps without a word (R99). -/
inductive Instr where
  /-- R190 -/
  | calibrate
  /-- R210 -/
  | init
  /-- R211 -/
  | shutdown
  /-- R150; the operand is the unsigned byte `w[7:0]` (R93) -/
  | send (b : Byte)
  /-- R131 -/
  | read
  /-- R132 -/
  | readUnchecked
  /-- R133 -/
  | available
  /-- R134 -/
  | isEmpty
  /-- R214 -/
  | eint
  /-- R215 -/
  | dint
  /-- R216 -/
  | status
  /-- R217 -/
  | readTuning
  /-- R111 -/
  | tick
  /-- R117: ENV(RXD_in <- v) or ENV(REF_in <- v) -/
  | env (line : InputLine) (v : Bool)
  /-- R130 -/
  | push (b : Byte)
  /-- R152 -/
  | txh
  /-- R171 -/
  | rxcaph
  /-- R172 -/
  | rxsmph
  /-- R191 -/
  | calh
  /-- R212 -/
  | shutdownStart
  /-- R213 -/
  | holdh
  /-- R218 -/
  | shutdownComplete
  /-- R196 -/
  | calibrateComplete
  deriving DecidableEq, Repr

end Sys2Proof
end

