-- ==== Sys2Proof/WellFormed.lean ====
section
/-! DEFINITION. Which instructions have a command word (R90, R99) and which configurations are legal (R12). -/

namespace Sys2Proof

/-- An instruction is well formed as a command when it has a word: the twelve of R91, not the internal steps of R99.
Operands are well formed by their type. -/
def Instr.WellFormed (i : Instr) : Bool :=
  match i with
  | .calibrate => true
  | .init => true
  | .shutdown => true
  | .send _ => true
  | .read => true
  | .readUnchecked => true
  | .available => true
  | .isEmpty => true
  | .eint => true
  | .dint => true
  | .status => true
  | .readTuning => true
  | .tick => false
  | .env _ _ => false
  | .push _ => false
  | .txh => false
  | .rxcaph => false
  | .rxsmph => false
  | .calh => false
  | .shutdownStart => false
  | .holdh => false
  | .shutdownComplete => false
  | .calibrateComplete => false

/-- R9: `RING_CAP = 2^k` with `1 ≤ k ≤ 15`. -/
def Config.ringCapOk (c : Config) : Bool :=
  (List.range 16).any fun k => 1 ≤ k && c.ringCap == 2 ^ k

/-- R12: "`TPHB = floor(TPB / 2)`, or a given `TPHB` with `1 ≤ TPHB < TPB`". -/
def Config.tphbOk (c : Config) : Bool :=
  c.tphb == c.tpb / 2 || (1 ≤ c.tphb && c.tphb < c.tpb)

/-- R12: "`CAL_MAX_ITER = none`, or `some n` with `n ≥ 1`". -/
def Config.calMaxIterOk (c : Config) : Bool :=
  match c.calMaxIter with
  | none => true
  | some n => 1 ≤ n

/-- R12: a configuration is legal only when all of these hold. -/
def Config.legal (c : Config) : Bool :=
  2 ≤ c.tpb
    && c.tphbOk
    && c.tpb + c.tphb ≤ 2 ^ c.timerW - 1
    && (1 ≤ c.targetDelta && c.targetDelta ≤ 2 ^ c.timerW - 1)
    && c.ringCapOk
    && (c.stopBits == 1 || c.stopBits == 2)
    && c.calMaxIterOk

end Sys2Proof
end

