-- ==== Sys2Proof/Decode.lean ====
section
/-! DEFINITION. The decoder of R95, total on 16-bit words, and the encoder written from the same table (R91). -/

namespace Sys2Proof

/-- Why a word is ILLEGAL: which clause of R94 it meets. The spec has one verdict, ILLEGAL; the three names say which
clause gave it, in the order R95 tests them. -/
inductive Illegal where
  /-- `w[11:8] ≠ 0` (R92, R94) -/
  | reservedField
  /-- `w[15:12] ∈ {0x0, 0xD, 0xE, 0xF}` (R94) -/
  | unassignedOp
  /-- `w[15:12] ≠ 0x4` and `w[7:0] ≠ 0` (R93, R94) -/
  | operandNotZero
  deriving DecidableEq, Repr

/-- The bits 15:12 of a command word (R90). -/
def opField (w : Word) : BitVec 4 := w.extractLsb' 12 4

/-- The bits 11:8 of a command word (R90). -/
def rsvField (w : Word) : BitVec 4 := w.extractLsb' 8 4

/-- The bits 7:0 of a command word (R90). -/
def dataField (w : Word) : Byte := w.extractLsb' 0 8

/-- R91: the command of an OP value other than SEND's. -/
def plainCommand (op : BitVec 4) : Option Instr :=
  match op.toNat with
  | 0x1 => some .calibrate
  | 0x2 => some .init
  | 0x3 => some .shutdown
  | 0x5 => some .read
  | 0x6 => some .readUnchecked
  | 0x7 => some .available
  | 0x8 => some .isEmpty
  | 0x9 => some .eint
  | 0xA => some .dint
  | 0xB => some .status
  | 0xC => some .readTuning
  | _ => none

/-- R95: decoding, a total function from 16-bit words to a command or ILLEGAL. -/
def decode (w : Word) : Except Illegal Instr :=
  if rsvField w ≠ 0 then .error .reservedField
  else if opField w = 0x4 then .ok (.send (dataField w))
  else
    match plainCommand (opField w) with
    | none => .error .unassignedOp
    | some i => if dataField w ≠ 0 then .error .operandNotZero else .ok i

/-- R90: a command word from its OP and DATA fields, RSV 0. -/
def commandWord (op : BitVec 4) (data : Byte) : Word := op ++ (0#4 ++ data)

/-- R91: the word of a command; an internal step has none (R99). -/
def encode (i : Instr) : Option Word :=
  match i with
  | .calibrate => some (commandWord 0x1 0)
  | .init => some (commandWord 0x2 0)
  | .shutdown => some (commandWord 0x3 0)
  | .send b => some (commandWord 0x4 b)
  | .read => some (commandWord 0x5 0)
  | .readUnchecked => some (commandWord 0x6 0)
  | .available => some (commandWord 0x7 0)
  | .isEmpty => some (commandWord 0x8 0)
  | .eint => some (commandWord 0x9 0)
  | .dint => some (commandWord 0xA 0)
  | .status => some (commandWord 0xB 0)
  | .readTuning => some (commandWord 0xC 0)
  | .tick => none
  | .env _ _ => none
  | .push _ => none
  | .txh => none
  | .rxcaph => none
  | .rxsmph => none
  | .calh => none
  | .shutdownStart => none
  | .holdh => none
  | .shutdownComplete => none
  | .calibrateComplete => none

/-- The word the opcode table numbers `nbits` bits of: bits at or above `nbits` are 0, and a command is one 16-bit word
(R100), so bits above 15 are no part of it. -/
def tableWord (nbits w : Nat) : Word := BitVec.ofNat 16 (w % 2 ^ nbits)

/-- The instruction the decoder reads from a word numbered as spec/opcode_table.json numbers it. -/
def decodeTableWord (nbits w : Nat) : Option Instr :=
  match decode (tableWord nbits w) with
  | .ok i => some i
  | .error _ => none

end Sys2Proof
end

