-- ==== Sys2Proof/Machine/State.lean ====
section
/-! DEFINITION. The state of the block (10_state.md R31 to R53) as plain data, the reasons a step can stop, and the
launch state (R270). -/

namespace Sys2Proof.Machine

open Sys2Proof

/-- R32 -/
inductive TMode where
  | stop
  | cont
  deriving DecidableEq, Repr

/-- R34: the output-compare action of channel 0. -/
inductive OutMode where
  | none
  | set
  deriving DecidableEq, Repr

/-- R36: the capture edge of channel 1. -/
inductive Edge where
  | falling
  | rising
  deriving DecidableEq, Repr

/-- R42 -/
inductive CalState where
  | uncal
  | prime
  | run
  | done
  | fail
  | preset
  deriving DecidableEq, Repr

/-- R46 -/
inductive PState where
  | inactive
  | active
  | holding
  deriving DecidableEq, Repr

/-- R47: the level driven on the output line; `rel` is released, not driven. -/
inductive TxLine where
  | rel
  | lo
  | hi
  deriving DecidableEq, Repr

/-- R49: which multi-step command the host waits on. -/
inductive HWait where
  | none
  | shutdown
  | cal
  deriving DecidableEq, Repr

/-- R240: the fault codes 1 to 7. "Codes 0 and 8 to 15 are never raised." -/
inductive FaultCode where
  | illegalCommand
  | uncheckedReadEmpty
  | sendInactive
  | initActive
  | initWithGie
  | shutdownInactive
  | calibrateActive
  deriving DecidableEq, Repr

/-- R51: what FAULT holds once a fault is raised. -/
structure FaultRecord where
  code : FaultCode
  word : Word
  deriving DecidableEq, Repr

/-- The steps of R110's table, as the entries of a schedule: which agent is asked to move next. -/
inductive Choice where
  | tick
  | env (line : InputLine) (v : Bool)
  | host
  | txh
  | holdh
  | rxcaph
  | rxsmph
  | calh
  deriving DecidableEq, Repr

/-- The state of the block. Registers of TIMER_W bits are natural numbers that every writer reduces modulo
`2^TIMER_W` (notes/assumptions/3.md); 1-bit fields are Booleans. -/
structure State where
  /-- the launch parameters of R6 to R13; no step writes them (notes/assumptions/1.md) -/
  cfg : Config
  /-- R31 TAR -/
  tar : Nat
  /-- R32 TMODE -/
  tmode : TMode
  /-- R33 CCR0 -/
  ccr0 : Nat
  /-- R34 OUTMOD0 -/
  outmod0 : OutMode
  /-- R34 TX_IE -/
  txIe : Bool
  /-- R34 IFG0 -/
  ifg0 : Bool
  /-- R35 CCR1 -/
  ccr1 : Nat
  /-- R36 CAP1 -/
  cap1 : Bool
  /-- R36 CCIS1 -/
  ccis1 : InputLine
  /-- R36 CM1 -/
  cm1 : Edge
  /-- R36 SCCI1 -/
  scci1 : Bool
  /-- R36 RX_IE -/
  rxIe : Bool
  /-- R36 IFG1 -/
  ifg1 : Bool
  /-- R37 PREV1 -/
  prev1 : Bool
  /-- R38 TXSR -/
  txsr : BitVec 16
  /-- R39 RXIDX -/
  rxidx : BitVec 3
  /-- R39 RXACC -/
  rxacc : Byte
  /-- R41 BUF: the slots that hold a byte, in rising order; an unlisted slot holds no value (R270) -/
  buf : List Host.Cell
  /-- R41 HEAD -/
  head : Nat
  /-- R41 TAIL -/
  tail : Nat
  /-- R42 CAL_STATE -/
  calState : CalState
  /-- R43 LAST_CAP; `none` is the spec's own "no value" -/
  lastCap : Option Nat
  /-- R43 CAL_ITER -/
  calIter : Nat
  /-- R44 TUNE_LO -/
  tuneLo : BitVec 8
  /-- R44 TUNE_HI -/
  tuneHi : BitVec 4
  /-- R45 REFDIV -/
  refdiv : BitVec 2
  /-- R45 SAVED_REFDIV -/
  savedRefdiv : BitVec 2
  /-- R46 PSTATE -/
  pstate : PState
  /-- R47 TXD -/
  txd : TxLine
  /-- R48 GIE -/
  gie : Bool
  /-- R49 HPROG, a launch parameter; no step writes it -/
  hprog : List Word
  /-- R49 HPC -/
  hpc : Nat
  /-- R49 HWAIT -/
  hwait : HWait
  /-- R50 HLOG, oldest word first -/
  hlog : List Word
  /-- R51 FAULT -/
  fault : Option FaultRecord
  /-- R52 RXD_in -/
  rxdIn : Bool
  /-- R52 REF_in -/
  refIn : Bool
  /-- R53 NOW, the ghost counter of ticks -/
  now : Nat
  /-- the model's own: the steps asked for next (R57, R110; notes/assumptions/6.md) -/
  sched : List Choice
  /-- the model's own: how many free values have been used (notes/assumptions/11.md) -/
  freeCount : Nat
  deriving DecidableEq, Repr

/-- Why the machine stops. -/
inductive Fault where
  /-- raised by `step` in a state whose FAULT is set (R241: "a model reports it as the outcome 'fault (code, word)'");
  the spec's own outcome, safe -/
  | recorded (code : FaultCode) (word : Word)
  /-- raised by MemRead of a ring slot that holds no value (R16), by READ and READ_UNCHECKED; no reachable state does
  that read (R70); safe -/
  | slotNoValue (slot : Nat)
  /-- raised by MemRead and MemWrite of a slot at or above RING_CAP, which does not exist (R16, R70), by READ,
  READ_UNCHECKED, PUSH and RXSMPH; no reachable state does that access (R75); safe -/
  | slotOutOfRange (slot : Nat)
  /-- raised by a command that raises a fault in a state with no command word at HPC (R241 records HPROG[HPC]); the
  host has no step there (R110), so no step raises it; safe -/
  | noCommandWord
  deriving DecidableEq, Repr

/-- Why the model answers nothing. -/
inductive Refusal where
  /-- raised by `exec` alone, for an instruction without a meaning; none is left; safe -/
  | notModelled (mnemonic : String)
  /-- raised by `step` for a configuration outside R12: "a model refuses any other configuration"; safe -/
  | illegalConfiguration
  deriving DecidableEq, Repr

/-- The outcome of a step of this machine. -/
abbrev Out := Host.Outcome State Fault Refusal

/-- R270: the launch state, for given parameters, host program and input levels. -/
def State.launch (cfg : Config) (hprog : List Word) (rxdIn refIn : Bool) : State where
  cfg := cfg
  tar := 0
  tmode := .stop
  ccr0 := 0
  outmod0 := .none
  txIe := false
  ifg0 := false
  ccr1 := 0
  cap1 := false
  ccis1 := .rxd
  cm1 := .falling
  scci1 := false
  rxIe := false
  ifg1 := false
  prev1 := true
  txsr := 0
  rxidx := 0
  rxacc := 0
  buf := []
  head := 0
  tail := 0
  calState := .uncal
  lastCap := none
  calIter := 0
  tuneLo := cfg.tuneLoRst
  tuneHi := cfg.tuneHiRst
  refdiv := cfg.refdivRst
  savedRefdiv := 0
  pstate := .inactive
  txd := .rel
  gie := false
  hprog := hprog
  hpc := 0
  hwait := .none
  hlog := []
  fault := none
  rxdIn := rxdIn
  refIn := refIn
  now := 0
  sched := []
  freeCount := 0

/-- R270 with the values the spec leaves to the launch chosen: the parameters of 95_test_vectors.md section 0
(notes/assumptions/2.md), no host program (notes/assumptions/9.md), `RXD_in = 1` and `REF_in = 0`
(notes/assumptions/4.md). -/
def State.reset : State := State.launch Config.example95 [] true false

end Sys2Proof.Machine
end

