-- ==== Sys2Proof/Machine/Ops.lean ====
section
/-! DEFINITION. The shared operations: modular arithmetic (R15), the ring storage (R16, R70), the host log, the advance
of the host program, holding, and raising a fault (R16, R241). -/

namespace Sys2Proof.Machine

open Sys2Proof

/-- R15: `a +W b`. -/
def addW (c : Config) (a b : Nat) : Nat := (a + b) % 2 ^ c.timerW

/-- R15: `a −W b`, the non-negative remainder. -/
def subW (c : Config) (a b : Nat) : Nat := (((a : Int) - (b : Int)) % ((2 ^ c.timerW : Nat) : Int)).toNat

/-- R15: `a +C b`. -/
def addC (c : Config) (a b : Nat) : Nat := (a + b) % c.ringCap

/-- R15: `a −C b`, the non-negative remainder. -/
def subC (c : Config) (a b : Nat) : Nat := (((a : Int) - (b : Int)) % (c.ringCap : Int)).toNat

/-- The canonical form of the ring storage: slot numbers strictly rising. An unlisted slot holds no value, so no entry
can equal what an unlisted slot reads as. -/
abbrev Memory.wf (m : List Host.Cell) : Prop := (m.map Prod.fst).Pairwise (· < ·)

/-- The byte a slot holds, or none: "A slot holds either a byte or no value" (R41). -/
def Memory.read (i : Nat) : List Host.Cell → Option Byte
  | [] => none
  | (a, x) :: m => if a = i then some x else Memory.read i m

/-- The storage with a byte written to one slot, in canonical form. -/
def Memory.write (i : Nat) (b : Byte) : List Host.Cell → List Host.Cell
  | [] => [(i, b)]
  | (a, x) :: m =>
    if i < a then (i, b) :: (a, x) :: m
    else if i = a then (i, b) :: m
    else (a, x) :: Memory.write i b m

/-- R16: `MemRead(i, 1)`, passing the byte on to `k`. "A slot that holds no value faults the model". -/
def memRead (i : Nat) (s : State) (k : Byte → Out) : Out :=
  if i < s.cfg.ringCap then
    match Memory.read i s.buf with
    | some b => k b
    | none => .fault (.slotNoValue i)
  else .fault (.slotOutOfRange i)

/-- R16: `MemWrite(i, 1, b)`, passing the state on to `k`. -/
def memWrite (i : Nat) (b : Byte) (s : State) (k : State → Out) : Out :=
  if i < s.cfg.ringCap then k { s with buf := Memory.write i b s.buf }
  else .fault (.slotOutOfRange i)

/-- R16: `log(w)` appends the word to HLOG. -/
def State.log (w : Word) (s : State) : State := { s with hlog := s.hlog ++ [w] }

/-- R16: `HPC <- HPC + 1`, the command completes (R219). -/
def State.advance (s : State) : State := { s with hpc := s.hpc + 1 }

/-- The state with FAULT set (R241). -/
def State.withFault (r : FaultRecord) (s : State) : State := { s with fault := some r }

/-- The state with another schedule (notes/assumptions/6.md). -/
def State.withSched (l : List Choice) (s : State) : State := { s with sched := l }

/-- R16: `held`: the agent has no enabled step, so nothing changes (notes/assumptions/7.md). -/
def held (s : State) : Out := .next s

/-- R240: the number of a fault code. -/
def faultNumber (c : FaultCode) : BitVec 4 :=
  match c with
  | .illegalCommand => 1
  | .uncheckedReadEmpty => 2
  | .sendInactive => 3
  | .initActive => 4
  | .initWithGie => 5
  | .shutdownInactive => 6
  | .calibrateActive => 7

/-- R241: TAKING A FAULT: `FAULT <- (code, HPROG[HPC])`. "Nothing else changes." The faulted state has no successor:
`step` answers the outcome `fault` there. There is no return from a fault (R241: "no way to clear FAULT"), and handlers
have no return instruction (R247). -/
def raiseFault (code : FaultCode) (s : State) : Out :=
  match s.hprog[s.hpc]? with
  | some w => .next (s.withFault ⟨code, w⟩)
  | none => .fault .noCommandWord

/-- R130: the buffer is full, `HEAD +C 1 = TAIL`. -/
def ringFull (s : State) : Bool := addC s.cfg s.head 1 == s.tail

/-- R134: the buffer is empty, `HEAD = TAIL`. -/
def ringEmpty (s : State) : Bool := s.head == s.tail

/-- R133: the count `HEAD −C TAIL`. -/
def ringCount (s : State) : Nat := subC s.cfg s.head s.tail

/-- R130: push, passing the state on to `k`; a byte pushed to a full buffer is dropped and nothing is written. -/
def pushByte (b : Byte) (s : State) (k : State → Out) : Out :=
  if ringFull s then k s
  else memWrite s.head b s fun s' => k { s' with head := addC s.cfg s.head 1 }

/-- R131, R132: the byte at TAIL, and TAIL advanced, passed on to `k`. -/
def takeByte (s : State) (k : Byte → State → Out) : Out :=
  memRead s.tail s fun b => k b { s with tail := addC s.cfg s.tail 1 }

/-- R111: `in1`, the level of the selected channel-1 input. -/
def chan1Input (s : State) : Bool :=
  match s.ccis1 with
  | .ref => s.refIn
  | .rxd => s.rxdIn

end Sys2Proof.Machine
end

