-- ==== Sys2Proof/Machine/Operands.lean ====
section
/-! DEFINITION. The operand form of SEND (R93, R151) and the result words (R96). -/

namespace Sys2Proof.Machine

open Sys2Proof

/-- `zext_16` of a byte (R14). -/
def zext16 (b : Byte) : Word := b.setWidth 16

/-- R151: `frame(b) = (((STOP_BITS = 2) ? 0x0300 : 0x0100) | zext_16(b)) << 1`. -/
def frame (c : Config) (b : Byte) : BitVec 16 :=
  ((if c.stopBits = 2 then 0x0300#16 else 0x0100#16) ||| zext16 b) <<< 1

/-- R96: READ's result when a byte is returned, `0x0100 | b`. -/
def presentWord (b : Byte) : Word := 0x0100#16 ||| zext16 b

/-- R96: AVAILABLE's result, `zext_16(count)`. -/
def countWord (n : Nat) : Word := BitVec.ofNat 16 n

/-- R96: IS_EMPTY's result. -/
def emptyWord (e : Bool) : Word := if e then 0x0001#16 else 0x0000#16

/-- R96, R217: READ_TUNING's result `{0b0000, TUNE_HI[3:0], TUNE_LO[7:0]}`. -/
def tuningWord (hi : BitVec 4) (lo : BitVec 8) : Word := 0b0000#4 ++ (hi ++ lo)

/-- R172: the accumulator with sample `v` put at bit `idx`: `RXACC | (zext_8(SCCI1) << RXIDX)`. -/
def withSample (acc : Byte) (idx : BitVec 3) (v : Bool) : Byte :=
  acc ||| ((BitVec.ofBool v).setWidth 8 <<< idx.toNat)

/-- R192: the direction test of the calibration loop. -/
def tooFast (c : Config) (delta : Nat) : Bool :=
  match c.calSense with
  | .convergent => delta > c.targetDelta
  | .asWritten => delta < c.targetDelta

/-- R193: STEP_DOWN on the pair (TUNE_HI, TUNE_LO). -/
def stepDown (t : BitVec 4 × BitVec 8) : BitVec 4 × BitVec 8 :=
  let lo := t.2 - 1
  (if lo = 255#8 ∧ t.1 > 0#4 then t.1 - 1 else t.1, lo)

/-- R193: STEP_UP on the pair (TUNE_HI, TUNE_LO). -/
def stepUp (t : BitVec 4 × BitVec 8) : BitVec 4 × BitVec 8 :=
  let lo := t.2 + 1
  (if lo = 0#8 ∧ t.1 < 15#4 then t.1 + 1 else t.1, lo)

end Sys2Proof.Machine
end

