-- ==== Sys2Proof/Machine/Flags.lean ====
section
/-! DEFINITION. The flag computations: which handlers are enabled (R110, R242), urgency (R116), and the STATUS word
(R216). -/

namespace Sys2Proof.Machine

open Sys2Proof

/-- R110: TXH is enabled. -/
def txhEnabled (s : State) : Bool := s.ifg0 && s.txIe && s.gie

/-- R110: RXCAPH is enabled. -/
def rxcaphEnabled (s : State) : Bool := s.ifg1 && s.rxIe && s.gie && s.cap1

/-- R110: RXSMPH is enabled. -/
def rxsmphEnabled (s : State) : Bool := s.ifg1 && s.rxIe && s.gie && !s.cap1

/-- R110, R213: HOLDH is enabled; it waits for the RX handlers. -/
def holdhEnabled (s : State) : Bool :=
  s.ifg0 && s.pstate == .holding && !rxcaphEnabled s && !rxsmphEnabled s

/-- R110: the calibration loop runs, `CAL_STATE ∈ {PRIME, RUN}`. -/
def calibrating (s : State) : Bool := s.calState == .prime || s.calState == .run

/-- R110, R191: CALH is enabled, whatever GIE is. -/
def calhEnabled (s : State) : Bool := s.ifg1 && calibrating s

/-- R116: `urgent`: any handler is enabled. -/
def urgent (s : State) : Bool :=
  txhEnabled s || holdhEnabled s || rxcaphEnabled s || rxsmphEnabled s || calhEnabled s

/-- R218: the host's wait on SHUTDOWN can end. -/
def shutdownCompleteEnabled (s : State) : Bool :=
  s.hwait == .shutdown && s.pstate == .inactive && !urgent s

/-- R196: the host's wait on CALIBRATE can end. -/
def calibrateCompleteEnabled (s : State) : Bool :=
  s.hwait == .cal && (s.calState == .done || s.calState == .fail) && !urgent s

/-- One bit of the STATUS word: "each condition counts as 1 when true and 0 when false". -/
def statusBit (v : Bool) (k : Nat) : Word := (BitVec.ofBool v).setWidth 16 <<< k

/-- R216: the STATUS word. -/
def statusWord (s : State) : Word :=
  statusBit (s.pstate != .inactive) 0
    ||| statusBit s.txIe 1
    ||| statusBit (s.pstate != .inactive && !s.cap1) 2
    ||| statusBit (s.calState == .done) 3
    ||| statusBit (s.calState == .fail) 4
    ||| statusBit (s.calState == .preset) 5
    ||| statusBit s.gie 6
    ||| statusBit (ringEmpty s) 7

end Sys2Proof.Machine
end

