-- ==== Sys2Proof/Machine/Calibration.lean ====
section
/-! DEFINITION. The clock calibration loop (44_calibration.md): CALIBRATE, CALH and the completion of CALIBRATE. -/

namespace Sys2Proof.Machine

open Sys2Proof

/-- R190: CALIBRATE with `CAL_ENABLED = false`: the precomputed value is loaded. -/
def loadPreset (s : State) : State :=
  { s with tuneLo := s.cfg.calPresetLo, tuneHi := s.cfg.calPresetHi, calState := .preset }

/-- R190: CALIBRATE with `CAL_ENABLED = true`: the loop starts and the host waits. -/
def startCalibration (s : State) : State :=
  { s with
    savedRefdiv := s.refdiv
    refdiv := s.cfg.calRefdiv
    ccis1 := .ref
    cm1 := .rising
    cap1 := true
    ifg1 := false
    rxIe := false
    prev1 := s.refIn
    tmode := .cont
    calIter := 0
    lastCap := none
    calState := .prime
    hwait := .cal }

/-- CALIBRATE (R190). -/
def execCalibrate (s : State) : Out :=
  if s.pstate ≠ .inactive then raiseFault .calibrateActive s
  else if s.cfg.calEnabled then .next (startCalibration s)
  else .next (((loadPreset s).log 0x0003#16).advance)

/-- R194: CAL_FINISH(st). -/
def calFinish (st : CalState) (s : State) : State :=
  { s with
    refdiv := s.savedRefdiv
    cap1 := false
    ccis1 := .rxd
    cm1 := .falling
    ifg1 := false
    rxIe := false
    tmode := .stop
    calState := st }

/-- R191: the previous capture. LAST_CAP with no value (no reachable state reads it) is a free value
(notes/assumptions/11.md). -/
def prevCapture (s : State) : Nat :=
  match s.lastCap with
  | some c => c
  | none => freeCapture s.freeCount % 2 ^ s.cfg.timerW

/-- The count of free values after `prevCapture` (notes/assumptions/11.md). -/
def afterPrevCapture (s : State) : Nat :=
  match s.lastCap with
  | some _ => s.freeCount
  | none => s.freeCount + 1

/-- R191 to R193: the tuning pair after a measurement that did not converge. -/
def retuned (delta : Nat) (s : State) : BitVec 4 × BitVec 8 :=
  if tooFast s.cfg delta then stepDown (s.tuneHi, s.tuneLo) else stepUp (s.tuneHi, s.tuneLo)

/-- R191, R195: the iteration bound has been reached. -/
def boundReached (s : State) : Bool :=
  match s.cfg.calMaxIter with
  | none => false
  | some n => s.calIter ≥ n

/-- R191: a measurement that did not converge: one bang-bang step, and FAIL at the bound (R195). -/
def adjust (delta : Nat) (s : State) : State :=
  let s1 := { s with
    tuneHi := (retuned delta s).1
    tuneLo := (retuned delta s).2
    calIter := s.calIter + 1 }
  if boundReached s1 then calFinish .fail s1 else s1

/-- R191: the measurement of a reference period in RUN. -/
def measure (s : State) : State :=
  let delta := subW s.cfg s.ccr1 (prevCapture s)
  let s1 := { s with lastCap := some s.ccr1, freeCount := afterPrevCapture s }
  if delta = s.cfg.targetDelta then calFinish .done s1 else adjust delta s1

/-- R191: the body of CALH: the priming capture, or a measurement. -/
def calCapture (s : State) : State :=
  if s.calState = .prime then { s with ifg1 := false, lastCap := some s.ccr1, calState := .run }
  else measure { s with ifg1 := false }

/-- CALH (R191), enabled when `IFG1 = 1 ∧ CAL_STATE ∈ {PRIME, RUN}`, whatever GIE is. -/
def execCalh (s : State) : Out := if calhEnabled s then .next (calCapture s) else held s

/-- R196: the result word of a finished calibration loop. -/
def calResult (s : State) : Word := if s.calState = .done then 0x0001#16 else 0x0002#16

/-- CALIBRATE_COMPLETE (R196), enabled when `HWAIT = CAL ∧ CAL_STATE ∈ {DONE, FAIL}` and not urgent. -/
def execCalibrateComplete (s : State) : Out :=
  if calibrateCompleteEnabled s then .next ({ s.log (calResult s) with hwait := .none }.advance)
  else held s

end Sys2Proof.Machine
end

