-- ==== Sys2Proof/Machine/Port.lean ====
section
/-! DEFINITION. Port control (45_port_control.md): INIT, SHUTDOWN and its internal steps, EINT, DINT, STATUS,
READ_TUNING. -/

namespace Sys2Proof.Machine

open Sys2Proof

/-- R210: what INIT writes; the advance of HPC is added by `execInit`. -/
def activate (s : State) : State :=
  { s with
    txd := .hi
    outmod0 := .set
    txIe := false
    ifg0 := false
    cap1 := true
    ccis1 := .rxd
    cm1 := .falling
    rxIe := true
    ifg1 := false
    prev1 := s.rxdIn
    rxidx := 0
    rxacc := 0
    tmode := .cont
    pstate := .active }

/-- INIT (R210); INIT_ACTIVE is checked first (R245). -/
def execInit (s : State) : Out :=
  if s.pstate ≠ .inactive then raiseFault .initActive s
  else if s.gie then raiseFault .initWithGie s
  else .next (activate s).advance

/-- R212: SHUTDOWN_START: the idle hold begins and the host waits. -/
def startHold (s : State) : State :=
  { s with
    txd := .hi
    ccr0 := addW s.cfg s.tar s.cfg.tpb
    ifg0 := false
    pstate := .holding
    hwait := .shutdown }

/-- SHUTDOWN (R211): faults when INACTIVE, held while `TX_IE = 1`, else SHUTDOWN_START in the same step. -/
def execShutdown (s : State) : Out :=
  if s.pstate = .inactive then raiseFault .shutdownInactive s
  else if s.txIe then held s
  else .next (startHold s)

/-- SHUTDOWN_START (R212), the host step inside SHUTDOWN. -/
def execShutdownStart (s : State) : Out := .next (startHold s)

/-- R213: what HOLDH writes: the pin is released and the timer stops. -/
def release (s : State) : State :=
  { s with
    ifg0 := false
    txd := .rel
    outmod0 := .none
    tmode := .stop
    rxIe := false
    ifg1 := false
    cap1 := false
    rxidx := 0
    rxacc := 0
    pstate := .inactive }

/-- HOLDH (R213), enabled when `IFG0 = 1 ∧ PSTATE = HOLDING` and no RX handler is enabled; not gated by GIE. -/
def execHoldh (s : State) : Out := if holdhEnabled s then .next (release s) else held s

/-- SHUTDOWN_COMPLETE (R218), enabled when `HWAIT = SHUTDOWN ∧ PSTATE = INACTIVE` and not urgent. -/
def execShutdownComplete (s : State) : Out :=
  if shutdownCompleteEnabled s then .next { s with hwait := .none }.advance else held s

/-- EINT (R214). -/
def execEint (s : State) : Out := .next { s with gie := true }.advance

/-- DINT (R215). -/
def execDint (s : State) : Out := .next { s with gie := false }.advance

/-- STATUS (R216). -/
def execStatus (s : State) : Out := .next ((s.log (statusWord s)).advance)

/-- READ_TUNING (R217). -/
def execReadTuning (s : State) : Out := .next ((s.log (tuningWord s.tuneHi s.tuneLo)).advance)

end Sys2Proof.Machine
end

