-- ==== Sys2Proof/Machine/Receive.lean ====
section
/-! DEFINITION. The receive engine (43_receive.md): RXCAPH and RXSMPH. -/

namespace Sys2Proof.Machine

open Sys2Proof

/-- R171: the body of RXCAPH. -/
def rxCapture (s : State) : State :=
  { s with
    ifg1 := false
    ccr1 := addW s.cfg (addW s.cfg s.ccr1 s.cfg.tphb) s.cfg.tpb
    cap1 := false
    rxidx := 0
    rxacc := 0 }

/-- RXCAPH (R171), enabled when `IFG1 = 1 ∧ RX_IE = 1 ∧ GIE = 1 ∧ CAP1 = 1`. -/
def execRxcaph (s : State) : Out := if rxcaphEnabled s then .next (rxCapture s) else held s

/-- R172: the first two statements of RXSMPH, the flag and the reschedule. -/
def rxReschedule (s : State) : State :=
  { s with ifg1 := false, ccr1 := addW s.cfg s.ccr1 s.cfg.tpb }

/-- R173: FRAME_DONE after the push: back to CAPTURE. -/
def backToCapture (s : State) : State := { s with rxacc := 0, rxidx := 0, cap1 := true }

/-- R172: the body of RXSMPH, with FRAME_DONE (R173) at the eighth sample. -/
def rxSample (s : State) : Out :=
  let acc := withSample s.rxacc s.rxidx s.scci1
  if s.rxidx = 7 then pushByte acc (rxReschedule s) fun s' => .next (backToCapture s')
  else .next { rxReschedule s with rxacc := acc, rxidx := s.rxidx + 1 }

/-- RXSMPH (R172), enabled when `IFG1 = 1 ∧ RX_IE = 1 ∧ GIE = 1 ∧ CAP1 = 0`. -/
def execRxsmph (s : State) : Out := if rxsmphEnabled s then rxSample s else held s

end Sys2Proof.Machine
end

