-- ==== Sys2Proof/Machine/Ring.lean ====
section
/-! DEFINITION. The ring buffer's operations (41_ringbuffer.md): PUSH, READ, READ_UNCHECKED, AVAILABLE, IS_EMPTY. -/

namespace Sys2Proof.Machine

open Sys2Proof

/-- PUSH b (R130), the internal step; the RX sample handler runs the same operation inside its own step (R173). -/
def execPush (b : Byte) (s : State) : Out := pushByte b s fun s' => .next s'

/-- READ (R131). -/
def execRead (s : State) : Out :=
  if ringEmpty s then .next ((s.log 0x0000#16).advance)
  else takeByte s fun b s' => .next ((s'.log (presentWord b)).advance)

/-- READ_UNCHECKED (R132): on an empty buffer the fault UNCHECKED_READ_EMPTY, "FAULT only". -/
def execReadUnchecked (s : State) : Out :=
  if ringEmpty s then raiseFault .uncheckedReadEmpty s
  else takeByte s fun b s' => .next ((s'.log (zext16 b)).advance)

/-- AVAILABLE (R133). -/
def execAvailable (s : State) : Out := .next ((s.log (countWord (ringCount s))).advance)

/-- IS_EMPTY (R134). -/
def execIsEmpty (s : State) : Out := .next ((s.log (emptyWord (ringEmpty s))).advance)

end Sys2Proof.Machine
end

