-- ==== Sys2Proof/Machine/Timer.lean ====
section
/-! DEFINITION. The timer and the environment: TICK (R111 to R114) and ENV (R117). -/

namespace Sys2Proof.Machine

open Sys2Proof

/-- R112: CH0_COMPARE. "It happens whatever TX_IE, GIE and PSTATE are". -/
def ch0Compare (s : State) : State :=
  { s with
    txd := if s.outmod0 = .set ∧ s.txd ≠ .rel then .hi else s.txd
    ifg0 := true }

/-- R113: CH1_CAPTURE; TAR is "the value after this tick's increment". -/
def ch1Capture (s : State) : State := { s with ccr1 := s.tar, ifg1 := true }

/-- R114: CH1_COMPARE(in1). -/
def ch1Compare (in1 : Bool) (s : State) : State := { s with scci1 := in1, ifg1 := true }

/-- R111: the edge CM1 selects, between the level PREV1 of the previous tick and `in1`. -/
def edgeSeen (s : State) (in1 : Bool) : Bool :=
  match s.cm1 with
  | .falling => s.prev1 && !in1
  | .rising => !s.prev1 && in1

/-- R111: channel 0 within a counting tick. -/
def tickChannel0 (s : State) : State := if s.tar = s.ccr0 then ch0Compare s else s

/-- R111: channel 1 within a counting tick. -/
def tickChannel1 (in1 : Bool) (s : State) : State :=
  if s.cap1 then (if edgeSeen s in1 then ch1Capture s else s)
  else if s.tar = s.ccr1 then ch1Compare in1 s
  else s

/-- R111: what a tick does while `TMODE = CONT`. -/
def countTick (in1 : Bool) (s : State) : State :=
  tickChannel1 in1 (tickChannel0 { s with tar := addW s.cfg s.tar 1 })

/-- R111: the tick, in its order. "While `TMODE = STOP`, a tick changes only NOW and PREV1". -/
def tickBody (s : State) : State :=
  let in1 := chan1Input s
  let s1 := { s with now := s.now + 1 }
  let s2 := match s.tmode with
    | .cont => countTick in1 s1
    | .stop => s1
  { s2 with prev1 := in1 }

/-- TICK (R111), enabled when not urgent (R110, R116). -/
def execTick (s : State) : Out := if urgent s then held s else .next (tickBody s)

/-- ENV(line <- v) (R117): sets "the named input and nothing else"; always enabled. -/
def execEnv (line : InputLine) (v : Bool) (s : State) : Out :=
  match line with
  | .rxd => .next { s with rxdIn := v }
  | .ref => .next { s with refIn := v }

end Sys2Proof.Machine
end

