-- ==== Sys2Proof/Machine/Transmit.lean ====
section
/-! DEFINITION. The transmit engine (42_transmit.md): SEND and TXH. -/

namespace Sys2Proof.Machine

open Sys2Proof

/-- R150: what SEND b does once it is neither faulted nor held; the advance of HPC is added by `execSend`. -/
def startFrame (b : Byte) (s : State) : State :=
  { s with
    ccr0 := addW s.cfg s.tar s.cfg.tpb
    outmod0 := .set
    ifg0 := false
    txIe := true
    txsr := frame s.cfg b }

/-- SEND b (R150): faults unless ACTIVE, held while `TX_IE = 1`. -/
def execSend (b : Byte) (s : State) : Out :=
  if s.pstate ≠ .active then raiseFault .sendInactive s
  else if s.txIe then held s
  else .next (startFrame b s).advance

/-- R152: the body of TXH. -/
def txShift (s : State) : State :=
  { s with
    ifg0 := false
    ccr0 := addW s.cfg s.ccr0 s.cfg.tpb
    txd := if s.txsr.getLsbD 0 then .hi else .lo
    txsr := s.txsr >>> 1
    txIe := if s.txsr >>> 1 = 0 then false else s.txIe }

/-- TXH (R152), enabled when `IFG0 = 1 ∧ TX_IE = 1 ∧ GIE = 1`. -/
def execTxh (s : State) : Out := if txhEnabled s then .next (txShift s) else held s

end Sys2Proof.Machine
end

