-- ==== Sys2Proof/Machine/Dispatch.lean ====
section
/-! DEFINITION. One arm per constructor of Instr, each a direct call of its meaning (R220 for the commands, R110 for the
internal steps). -/

namespace Sys2Proof.Machine

open Sys2Proof

def exec (i : Instr) (s : State) : Host.Outcome State Fault Refusal :=
  match i with
  | .calibrate => Sys2Proof.Machine.execCalibrate s
  | .init => Sys2Proof.Machine.execInit s
  | .shutdown => Sys2Proof.Machine.execShutdown s
  | .send b => Sys2Proof.Machine.execSend b s
  | .read => Sys2Proof.Machine.execRead s
  | .readUnchecked => Sys2Proof.Machine.execReadUnchecked s
  | .available => Sys2Proof.Machine.execAvailable s
  | .isEmpty => Sys2Proof.Machine.execIsEmpty s
  | .eint => Sys2Proof.Machine.execEint s
  | .dint => Sys2Proof.Machine.execDint s
  | .status => Sys2Proof.Machine.execStatus s
  | .readTuning => Sys2Proof.Machine.execReadTuning s
  | .tick => Sys2Proof.Machine.execTick s
  | .env line v => Sys2Proof.Machine.execEnv line v s
  | .push b => Sys2Proof.Machine.execPush b s
  | .txh => Sys2Proof.Machine.execTxh s
  | .rxcaph => Sys2Proof.Machine.execRxcaph s
  | .rxsmph => Sys2Proof.Machine.execRxsmph s
  | .calh => Sys2Proof.Machine.execCalh s
  | .shutdownStart => Sys2Proof.Machine.execShutdownStart s
  | .holdh => Sys2Proof.Machine.execHoldh s
  | .shutdownComplete => Sys2Proof.Machine.execShutdownComplete s
  | .calibrateComplete => Sys2Proof.Machine.execCalibrateComplete s

end Sys2Proof.Machine
end

