-- ==== Sys2Proof/Machine/Schedule.lean ====
section
/-! DEFINITION. The step relation of R110: which of its steps is enabled, what each does, the host's fetch and dispatch
(R118, R220), the order taken when nothing is asked for (95_test_vectors.md section 0), and placing a command word. -/

namespace Sys2Proof.Machine

open Sys2Proof

/-- R118: the host's next command word, HPROG[HPC], if the program has one. -/
def hostWord (s : State) : Option Word := s.hprog[s.hpc]?

/-- R118, R150, R211: the command is held: SEND or SHUTDOWN while `TX_IE = 1`, once its fault check has passed. -/
def commandHeld (i : Instr) (s : State) : Bool :=
  match i with
  | .send _ => s.pstate == .active && s.txIe
  | .shutdown => s.pstate != .inactive && s.txIe
  | _ => false

/-- R110: the command at HPC is not held; an illegal word faults (R94), so it is not held. -/
def commandReady (w : Word) (s : State) : Bool :=
  match decode w with
  | .ok i => !commandHeld i s
  | .error _ => true

/-- R110, R118: HOST is enabled. "While `HWAIT ≠ NONE`, the only host step is the completion step of the awaited
command". -/
def hostEnabled (s : State) : Bool :=
  !urgent s &&
    match hostWord s with
    | none => false
    | some w =>
      match s.hwait with
      | .none => commandReady w s
      | .shutdown => shutdownCompleteEnabled s
      | .cal => calibrateCompleteEnabled s

/-- R220: the command at HPC: decoding comes first (R245). -/
def runCommand (w : Word) (s : State) : Out :=
  match decode w with
  | .error _ => raiseFault .illegalCommand s
  | .ok i => exec i s

/-- R220: dispatch of a host step. -/
def hostStep (s : State) : Out :=
  match s.hwait with
  | .shutdown => exec .shutdownComplete s
  | .cal => exec .calibrateComplete s
  | .none =>
    match hostWord s with
    | none => held s
    | some w => runCommand w s

/-- R110's table: which step is enabled. "Every step requires `FAULT = nothing`". -/
def enabled (c : Choice) (s : State) : Bool :=
  s.fault.isNone &&
    match c with
    | .tick => !urgent s
    | .env _ _ => true
    | .host => hostEnabled s
    | .txh => txhEnabled s
    | .holdh => holdhEnabled s
    | .rxcaph => rxcaphEnabled s
    | .rxsmph => rxsmphEnabled s
    | .calh => calhEnabled s

/-- R110's table: what the step does. -/
def take (c : Choice) (s : State) : Out :=
  match c with
  | .tick => exec .tick s
  | .env line v => exec (.env line v) s
  | .host => hostStep s
  | .txh => exec .txh s
  | .holdh => exec .holdh s
  | .rxcaph => exec .rxcaph s
  | .rxsmph => exec .rxsmph s
  | .calh => exec .calh s

/-- R155, R177, R282 and 90_conflicts.md C14, which the spec follows where R110 admits more: "host commands take no
time, and the host lets a tick pass only while held, while waiting on SHUTDOWN or CALIBRATE, or after its last command".
So a step of R110's table is taken in a run unless it is a tick and the host has a step (notes/assumptions/23.md). -/
def mayTake (c : Choice) (s : State) : Bool :=
  enabled c s &&
    match c with
    | .tick => !hostEnabled s
    | .env _ _ => true
    | .host => true
    | .txh => true
    | .holdh => true
    | .rxcaph => true
    | .rxsmph => true
    | .calh => true

/-- The step taken when the schedule asks for none: "At each instant, enabled handlers run first, then host steps run
until the host is held, waiting or done, and then one tick happens" (95_test_vectors.md section 0). DESIGN CHOICE
(notes/assumptions/6.md), unsafe: R110 fixes no order. -/
def defaultChoice (s : State) : Choice :=
  if txhEnabled s then .txh
  else if rxcaphEnabled s then .rxcaph
  else if rxsmphEnabled s then .rxsmph
  else if holdhEnabled s then .holdh
  else if calhEnabled s then .calh
  else if hostEnabled s then .host
  else .tick

/-- The step of a state without a fault: the step the schedule asks for next, if a run may take it; a step that it may
not take is held, so nothing but the schedule changes (R16, notes/assumptions/7.md). -/
def runSchedule (s : State) : Out :=
  match s.sched with
  | [] => take (defaultChoice s) s
  | c :: cs => if mayTake c s then take c (s.withSched cs) else held (s.withSched cs)

/-- Which step of R110's table `runSchedule` takes; none when the schedule's next one may not be taken. -/
def chosen (s : State) : Option Choice :=
  match s.sched with
  | [] => some (defaultChoice s)
  | c :: _ => if mayTake c s then some c else none

/-- The host program with `w` at index `i`; a program too short is lengthened with words 0x0000. -/
def placeWord (w : Word) : Nat → List Word → List Word
  | 0, [] => [w]
  | 0, _ :: l => w :: l
  | i + 1, [] => 0 :: placeWord w i []
  | i + 1, x :: l => x :: placeWord w i l

/-- The state in which the very next step is the host's step on `w`: the word at HPC, the host not waiting, no fault,
no pending flag that makes a handler urgent, and HOST asked for next (notes/assumptions/9.md). -/
def fetchNext (w : Word) (s : State) : State :=
  { s with
    hprog := placeWord w s.hpc s.hprog
    hwait := .none
    fault := none
    ifg0 := if urgent s then false else s.ifg0
    ifg1 := if urgent s then false else s.ifg1
    sched := .host :: s.sched }

end Sys2Proof.Machine
end

