-- ==== Sys2Proof/Machine/Step.lean ====
section
/-! DEFINITION. One step of the machine, and placing a command word where it is fetched next. -/

namespace Sys2Proof.Machine

open Sys2Proof

/-- One step. A configuration outside R12 is refused; a faulted state has no step and is reported (R241); otherwise the
schedule's next step is taken (R110). -/
def step (s : State) : Host.Outcome State Fault Refusal :=
  if s.cfg.legal then
    match s.fault with
    | some r => .fault (.recorded r.code r.word)
    | none => runSchedule s
  else .refused .illegalConfiguration

/-- The state with a table word placed as the host's next command (notes/assumptions/9.md). -/
def State.withFetchWord (s : State) (nbits w : Nat) : State := fetchNext (tableWord nbits w) s

end Sys2Proof.Machine
end

