-- ==== Sys2Proof/Machine/Assembler.lean ====
section
/-! DEFINITION. The assembler syntax (30_encoding.md R97) and the pseudo-instruction PRINT (R98), on lists of
characters. What R97 leaves open of the layout of a line is in notes/assumptions/16.md. -/

namespace Sys2Proof.Machine

open Sys2Proof

/-- A blank between the parts of a line. -/
def isBlank (c : Char) : Bool := c == ' ' || c == '\t'

/-- Printable ASCII, 0x20 to 0x7E (R97, R98). -/
def isPrintable (c : Char) : Bool := 0x20 ≤ c.toNat && c.toNat ≤ 0x7E

/-- A line without its leading blanks. -/
def skipBlanks : List Char → List Char
  | [] => []
  | c :: l => if isBlank c then skipBlanks l else c :: l

/-- R97: "Mnemonics are ... case-insensitive". -/
def upperCase (c : Char) : Char := if 'a' ≤ c ∧ c ≤ 'z' then Char.ofNat (c.toNat - 32) else c

/-- A character of a mnemonic: a letter or an underscore. -/
def isMnemonicChar (c : Char) : Bool := c == '_' || ('A' ≤ upperCase c && upperCase c ≤ 'Z')

/-- The leading mnemonic of a line, in capitals, and the rest of the line. -/
def takeMnemonic : List Char → List Char × List Char
  | [] => ([], [])
  | c :: l =>
    if isMnemonicChar c then (upperCase c :: (takeMnemonic l).1, (takeMnemonic l).2) else ([], c :: l)

/-- R97: nothing is left but a comment, which "starts ... `;` ... and runs to the end of the line". -/
def lineEnds (l : List Char) : Bool :=
  match skipBlanks l with
  | [] => true
  | c :: _ => c == ';'

/-- The value of a digit in base 16. -/
def digitValue (c : Char) : Option Nat :=
  if '0' ≤ c ∧ c ≤ '9' then some (c.toNat - 48)
  else if 'A' ≤ upperCase c ∧ upperCase c ≤ 'F' then some ((upperCase c).toNat - 55)
  else none

/-- The digits of a number in `base` added to the value `acc` of the digits before them, and the rest of the line. -/
def takeDigits (base : Nat) : Nat → List Char → Nat × List Char
  | acc, [] => (acc, [])
  | acc, c :: l =>
    match digitValue c with
    | some d => if d < base then takeDigits base (acc * base + d) l else (acc, c :: l)
    | none => (acc, c :: l)

/-- A number in `base`, of at least one digit and at most 255, as a byte. -/
def byteNumber (base : Nat) (l : List Char) : Option (Byte × List Char) :=
  let r := takeDigits base 0 l
  if r.2.length < l.length ∧ r.1 ≤ 255 then some (BitVec.ofNat 8 r.1, r.2) else none

/-- R97: `<byte>`: a decimal `0..255`, a hex `0x00..0xFF`, or a character literal (printable ASCII). -/
def byteOperand (l : List Char) : Option (Byte × List Char) :=
  match l with
  | '\'' :: c :: '\'' :: rest => if isPrintable c then some (BitVec.ofNat 8 c.toNat, rest) else none
  | '0' :: 'x' :: rest => byteNumber 16 rest
  | _ => byteNumber 10 l

/-- R98: the escapes of PRINT's text. -/
def escapeCode (c : Char) : Option Byte :=
  if c = 'r' then some 0x0D#8
  else if c = 'n' then some 0x0A#8
  else if c = '\\' then some 0x5C#8
  else if c = '"' then some 0x22#8
  else none

/-- R98: the bytes of PRINT's text, after its opening quote and up to its closing one. -/
def textBytes : List Char → Option (List Byte × List Char)
  | [] => none
  | '"' :: l => some ([], l)
  | '\\' :: c :: l =>
    match escapeCode c, textBytes l with
    | some b, some (bs, rest) => some (b :: bs, rest)
    | _, _ => none
  | c :: l =>
    if isPrintable c then
      match textBytes l with
      | some (bs, rest) => some (BitVec.ofNat 8 c.toNat :: bs, rest)
      | none => none
    else none

/-- R91: the mnemonics of the commands without an operand. -/
def plainMnemonics : List (List Char × Instr) :=
  [("CALIBRATE".toList, .calibrate), ("INIT".toList, .init), ("SHUTDOWN".toList, .shutdown), ("READ".toList, .read),
    ("READ_UNCHECKED".toList, .readUnchecked), ("AVAILABLE".toList, .available), ("IS_EMPTY".toList, .isEmpty),
    ("EINT".toList, .eint), ("DINT".toList, .dint), ("STATUS".toList, .status), ("READ_TUNING".toList, .readTuning)]

/-- The words of a list of commands; none if one has no word. -/
def encodeAll : List Instr → Option (List Word)
  | [] => some []
  | i :: l =>
    match encode i, encodeAll l with
    | some w, some ws => some (w :: ws)
    | _, _ => none

/-- R97: the command of a `SEND <byte>` line, given what follows the mnemonic. -/
def sendOperand (rest : List Char) : Option (List Instr) :=
  match byteOperand (skipBlanks rest) with
  | some (b, tl) => if lineEnds tl then some [.send b] else none
  | none => none

/-- R98: the commands of a `PRINT "<text>"` line, given what follows the mnemonic. -/
def printOperand (rest : List Char) : Option (List Instr) :=
  match skipBlanks rest with
  | '"' :: l =>
    match textBytes l with
    | some (bs, tl) => if lineEnds tl then some (bs.map Instr.send) else none
    | none => none
  | _ => none

/-- Whether a blank separates a mnemonic from its operand. -/
def blankFirst (l : List Char) : Bool :=
  match l with
  | [] => false
  | c :: _ => isBlank c

/-- R97, R98: the commands of a line with mnemonic `m` and `rest` after it. -/
def lineCommands (m rest : List Char) : Option (List Instr) :=
  if m = "SEND".toList then (if blankFirst rest then sendOperand rest else none)
  else if m = "PRINT".toList then (if blankFirst rest then printOperand rest else none)
  else
    match plainMnemonics.lookup m with
    | some i => if lineEnds rest then some [i] else none
    | none => none

/-- R97, R98: one line of a host program, as its words; an empty or comment line gives none. -/
def assembleLine (line : List Char) : Option (List Word) :=
  let l := skipBlanks line
  if lineEnds l then some []
  else
    match lineCommands (takeMnemonic l).1 (takeMnemonic l).2 with
    | some is => encodeAll is
    | none => none

/-- R97: a host program, one command per line, as its words in order. -/
def assemble : List (List Char) → Option (List Word)
  | [] => some []
  | line :: ls =>
    match assembleLine line, assemble ls with
    | some ws, some rest => some (ws ++ rest)
    | _, _ => none

end Sys2Proof.Machine
end

