-- ==== Sys2Proof/Machine/Registers.lean ====
section
/-! DEFINITION. The reference numbers and bit positions of the control registers (10_state.md R55). "The numbers and bit
positions below name the fields for a model's record and for fault reports only"; no instruction uses them. -/

namespace Sys2Proof.Machine

open Sys2Proof

/-- A field of one bit at position `k` of a register. -/
def bitAt (v : Bool) (k : Nat) : Nat := v.toNat * 2 ^ k

/-- R55: TMODE, 0 = STOP, 1 = CONT. -/
def tmodeBit (m : TMode) : Bool := m == .cont

/-- R55: OUTMOD0, 00 = NONE, 01 = SET. -/
def outmodBits (m : OutMode) : Nat :=
  match m with
  | .none => 0
  | .set => 1

/-- R55: PSTATE, 0 = INACTIVE, 1 = ACTIVE, 2 = HOLDING. -/
def pstateBits (p : PState) : Nat :=
  match p with
  | .inactive => 0
  | .active => 1
  | .holding => 2

/-- R55: TXD, 0 = REL, 1 = LO, 2 = HI. -/
def txdBits (l : TxLine) : Nat :=
  match l with
  | .rel => 0
  | .lo => 1
  | .hi => 2

/-- R55: the value of the control register with reference number `n`; there are thirteen. -/
def controlRegister (n : Nat) (s : State) : Option Nat :=
  match n with
  | 0 => some (bitAt (tmodeBit s.tmode) 0)
  | 1 => some s.tar
  | 2 => some (bitAt s.ifg0 0 + bitAt s.txIe 4 + outmodBits s.outmod0 * 2 ^ 5)
  | 3 => some s.ccr0
  | 4 => some (bitAt s.ifg1 0 + bitAt s.scci1 3 + bitAt s.rxIe 4 + bitAt s.cap1 8 + bitAt (s.ccis1 == .ref) 12
      + bitAt (s.cm1 == .rising) 14)
  | 5 => some s.ccr1
  | 6 => some s.txsr.toNat
  | 7 => some (s.rxidx.toNat + s.rxacc.toNat * 2 ^ 8)
  | 8 => some s.head
  | 9 => some s.tail
  | 10 => some (s.tuneLo.toNat + s.tuneHi.toNat * 2 ^ 8)
  | 11 => some (s.refdiv.toNat + s.savedRefdiv.toNat * 2 ^ 2)
  | 12 => some (pstateBits s.pstate + txdBits s.txd * 2 ^ 2 + bitAt s.gie 4)
  | _ => none

end Sys2Proof.Machine
end

