-- ==== Sys2Proof/Safety.lean ====
section
/-! DEFINITION. What claims about runs are stated in: the steps of the relation (R110), reachability, the invariant
(R56), the end points (R120) and stuck states (R256). -/

namespace Sys2Proof.Machine

open Sys2Proof

/-- `n` steps of the machine, stopping at the first fault or refusal. -/
def steps : Nat → State → Out
  | 0, s => .next s
  | n + 1, s =>
    match step s with
    | .next t => steps n t
    | .fault r => .fault r
    | .refused r => .refused r

/-- R110: one step of the relation: an enabled choice and the state it leads to. -/
def Moves (c : Choice) (s t : State) : Prop := enabled c s = true ∧ take c s = .next t

/-- The states some sequence of enabled steps leads to, with `P` true of every step's state and choice. "Any enabled
step may be taken next" (R110) is `P` always true; a premise on the environment or on the host is a narrower `P`. -/
inductive ReachesBy (P : State → Choice → Prop) : State → State → Prop where
  | refl (s : State) : ReachesBy P s s
  | tail {s t u : State} (c : Choice) (h : ReachesBy P s t) (hc : P t c) (hm : Moves c t u) : ReachesBy P s u

/-- C14 of 90_conflicts.md: a tick passes only when the host has no step. -/
def hostFirst (s : State) (c : Choice) : Prop := c = .tick → hostEnabled s = false

/-- D50, R155, R177: while GIE is 0, the host has no step in a state in which an event of the TX or the RX engine is
masked and pending, so no EINT can let that engine's handler run late. -/
def State.NoLateRun (s : State) : Prop :=
  s.gie = false → (s.txIe = true ∧ s.ifg0 = true) ∨ (s.rxIe = true ∧ s.ifg1 = true) → hostEnabled s = false

/-! ## Whole runs and weak fairness (R119) -/

/-- A run: the state at each instant and the step of R110's table taken there, if any. A run in which nothing is taken
at an instant changes at most the model's own schedule there (notes/assumptions/7.md). -/
def IsRun (r : Nat → State) (took : Nat → Option Choice) : Prop :=
  ∀ n, ∃ l : List Choice,
    match took n with
    | some c => Moves c ((r n).withSched l) (r (n + 1))
    | none => r (n + 1) = (r n).withSched l

/-- R119: "A step that stays enabled is eventually taken. This applies to TICK, every handler, and HOST. Environment steps
need no fairness." -/
def WeaklyFair (r : Nat → State) (took : Nat → Option Choice) : Prop :=
  ∀ c ∈ [Choice.tick, .host, .txh, .holdh, .rxcaph, .rxsmph, .calh], ∀ n,
    (∀ m, n ≤ m → enabled c (r m) = true) → ∃ m, n ≤ m ∧ took m = some c

/-- R116: the handlers, the steps that make a state urgent. -/
def handlers : List Choice := [.txh, .holdh, .rxcaph, .rxsmph, .calh]

/-- R56 (a), (b): the ring buffer in a legal configuration. -/
structure State.RingOk (s : State) : Prop where
  /-- R12 -/
  legal : s.cfg.legal = true
  /-- R56 (a) -/
  headRange : s.head < s.cfg.ringCap
  /-- R56 (a) -/
  tailRange : s.tail < s.cfg.ringCap
  /-- R56 (b): every slot in the logical range holds a byte -/
  ringHolds : ∀ k, k < ringCount s → (Memory.read (addC s.cfg s.tail k) s.buf).isSome = true
  /-- the ring storage is in canonical form -/
  bufWf : Memory.wf s.buf
  /-- R41: only slots below RING_CAP exist -/
  bufRange : ∀ x ∈ s.buf, x.1 < s.cfg.ringCap

/-- R56, with what its induction needs: what holds in every state a run from a legal launch reaches. -/
structure State.Inv (s : State) : Prop where
  /-- R56 (a), (b) -/
  ring : s.RingOk
  /-- R31: TAR has TIMER_W bits -/
  tarRange : s.tar < 2 ^ s.cfg.timerW
  /-- R33 -/
  ccr0Range : s.ccr0 < 2 ^ s.cfg.timerW
  /-- R35 -/
  ccr1Range : s.ccr1 < 2 ^ s.cfg.timerW
  /-- R43 -/
  lastCapRange : ∀ c, s.lastCap = some c → c < 2 ^ s.cfg.timerW
  /-- R172: "Bits of RXACC at or above RXIDX are always 0" -/
  accLow : s.rxacc.toNat < 2 ^ s.rxidx.toNat
  /-- R56 (d) -/
  txBusy : s.txIe = true → s.pstate = .active ∧ s.txsr ≠ 0
  /-- R56 (e) -/
  holding : s.pstate = .holding → s.txIe = false ∧ s.hwait = .shutdown
  /-- R56 (f), and R190, R287: channel 1 captures rising edges of REF while the loop runs -/
  calibration : calibrating s = true →
    s.pstate = .inactive ∧ s.hwait = .cal ∧ s.ccis1 = .ref ∧ s.rxIe = false ∧ s.cap1 = true ∧ s.cm1 = .rising
      ∧ s.tmode = .cont
  /-- R43: LAST_CAP is written in PRIME before any read -/
  captured : s.calState = .run → s.lastCap.isSome = true
  /-- R46, R47: an inactive port drives nothing and receives nothing -/
  portClosed : s.pstate = .inactive → s.txd = .rel ∧ s.rxIe = false ∧ s.outmod0 = .none
  /-- R170, R212: an open port listens on RXD for falling edges with the timer running -/
  portOpen : s.pstate ≠ .inactive →
    s.txd ≠ .rel ∧ s.rxIe = true ∧ s.ccis1 = .rxd ∧ s.cm1 = .falling ∧ s.tmode = .cont ∧ s.outmod0 = .set
  /-- R32, R254: the timer runs only for an open port or a calibration -/
  timerIdle : s.pstate = .inactive → calibrating s = false → s.tmode = .stop
  /-- R219: HPC is an index of HPROG or its length -/
  hpcRange : s.hpc ≤ s.hprog.length
  /-- R49: the host waits only on a command of HPROG -/
  waiting : s.hwait ≠ .none → s.hpc < s.hprog.length
  /-- R212, R213: what the wait on SHUTDOWN waits for -/
  waitsShutdown : s.hwait = .shutdown → s.pstate ≠ .active
  /-- R190, R191: what the wait on CALIBRATE waits for -/
  waitsCal : s.hwait = .cal →
    s.pstate = .inactive ∧ (calibrating s = true ∨ s.calState = .done ∨ s.calState = .fail)
  /-- R51, R241: FAULT holds the command word at HPC -/
  faultWord : ∀ r, s.fault = some r → s.hprog[s.hpc]? = some r.word

/-- R120: host-done. -/
def hostDone (s : State) : Bool := s.hpc == s.hprog.length && s.hwait == .none

/-- R120: quiescent. -/
def quiescent (s : State) : Bool :=
  hostDone s && !s.txIe && s.pstate != .holding && !(s.pstate == .active && !s.cap1) && !calibrating s
    && !urgent s && s.fault.isNone

/-- R256: the host has a command left, or waits. -/
def hostNotDone (s : State) : Prop := s.hpc < s.hprog.length ∨ s.hwait ≠ .none

/-- R256 (c): the environment "never makes another rising edge", as the block reads it (R111): no tick sees REF_in at 1
after PREV1 at 0. -/
def noRisingRef (s : State) (c : Choice) : Prop := c = .tick → ¬ (s.prev1 = false ∧ s.refIn = true)

/-- R256 (c), as a condition on the input alone: no environment step raises REF_in. -/
def neverRaisesRef (s : State) (c : Choice) : Prop := c = .env .ref true → s.refIn = true

/-- R256 (b): the environment "never gives `delta = TARGET_DELTA`" at a measurement (R191). -/
def neverOnTarget (s : State) (c : Choice) : Prop :=
  c = .calh → s.calState = .run → ∀ last, s.lastCap = some last → subW s.cfg s.ccr1 last ≠ s.cfg.targetDelta

/-- R256: a state is stuck when the host is not done and no future step can advance HPC, with the steps restricted by
`P`; a run that ends in a fault is not stuck (notes/assumptions/22.md). -/
def StuckBy (P : State → Choice → Prop) (s : State) : Prop :=
  hostNotDone s ∧ ∀ t, ReachesBy P s t → t.hpc = s.hpc ∧ t.fault = none

/-- R41, R56 (b): the bytes of the ring buffer's logical range, oldest first. -/
def ringContents (s : State) : List Byte :=
  (List.range (ringCount s)).filterMap fun k => Memory.read (addC s.cfg s.tail k) s.buf

/-- R136: an operation of the interleaving, a push or a READ. -/
inductive RingOp where
  | push (b : Byte)
  | read
  deriving DecidableEq, Repr

/-- R136: an interleaving of pushes and READs, with the bytes whose push was accepted, in push order. -/
def ringRun : List RingOp → State → Option (List Byte × State)
  | [], s => some ([], s)
  | .push b :: l, s =>
    match exec (.push b) s with
    | .next t =>
      match ringRun l t with
      | some (bs, u) => some (if ringFull s then bs else b :: bs, u)
      | none => none
    | _ => none
  | .read :: l, s =>
    match exec .read s with
    | .next t => ringRun l t
    | _ => none

/-- R136: the bytes of the non-empty READ results in a piece of the host log, "with bit 8 removed". -/
def readResults (log : List Word) : List Byte :=
  (log.filter fun w => w ≠ 0x0000#16).map fun w => w.setWidth 8

/-- R197: the 12-bit tuning code `{TUNE_HI, TUNE_LO}`. -/
def tuneCode (s : State) : Nat := s.tuneHi.toNat * 256 + s.tuneLo.toNat

/-- R197: one reference period, as the environment gives it: the next capture comes `f code` ticks after the last. -/
def measureOnce (f : Nat → Nat) (s : State) : Out :=
  exec .calh { s with ifg1 := true, ccr1 := addW s.cfg (prevCapture s) (f (tuneCode s)) }

/-- R197: up to `n` reference periods, ending with the loop. -/
def calibrationRun (f : Nat → Nat) : Nat → State → Out
  | 0, s => .next s
  | n + 1, s =>
    if s.calState = .run then
      match measureOnce f s with
      | .next t => calibrationRun f n t
      | .fault r => .fault r
      | .refused r => .refused r
    else .next s

/-- R176: the level of the receive line `m` ticks after the edge of an ideal frame of `b` (bit 7 is kept on: "The line
after bit 7 does not matter"). -/
def frameLevel (c : Config) (b : Byte) (m : Nat) : Bool :=
  if m < c.tpb then false else b.getLsbD (min (m / c.tpb - 1) 7)

/-- R176: the steps of `n` ticks of an ideal frame of `b`, starting at the edge: before each tick the line is set,
after it the TX and RX handlers run if they are enabled. -/
def frameSchedule (c : Config) (b : Byte) (n : Nat) : List Choice :=
  (List.range n).flatMap fun m => [.env .rxd (frameLevel c b m), .tick, .txh, .rxcaph, .rxsmph]

/-- R110: the steps of a list in order, each taken if it is enabled and passed over if it is not. -/
def follow : List Choice → State → Out
  | [], s => .next s
  | c :: cs, s =>
    if enabled c s then
      match take c s with
      | .next t => follow cs t
      | .fault r => .fault r
      | .refused r => .refused r
    else follow cs s

/-- A port that is open, idle on both lines, with nothing pending and interrupts enabled: the premise of the waveform,
hold and receive laws (R154, R222, R176). -/
structure State.Listening (s : State) : Prop where
  inv : s.Inv
  noFault : s.fault = none
  active : s.pstate = .active
  txIdle : s.txIe = false
  gieOn : s.gie = true
  rxIdle : s.cap1 = true
  noEdge : s.prev1 = true
  nothingPending : s.ifg1 = false

end Sys2Proof.Machine
end

