-- ==== Sys2Proof/Certificates/Slice0/Obligations.lean ====
section
/-! DEFINITION. The statements about the block, from the numbered rules of spec/. Every result statement gives the next
state as the state before with exactly the named fields changed, so it is its instruction's frame too. -/

open Sys2Proof Sys2Proof.Machine

/-! ## Encoding (30_encoding.md) -/

/-- R91, R94: words written out from the encoding table decode to what they stand for. -/
def Obligations.SpecWordsDecode : Prop :=
  decode 0x1000#16 = .ok .calibrate ∧ decode 0x2000#16 = .ok .init ∧ decode 0x3000#16 = .ok .shutdown
    ∧ decode 0x4041#16 = .ok (.send 0x41#8) ∧ decode 0x40FF#16 = .ok (.send 0xFF#8) ∧ decode 0x5000#16 = .ok .read
    ∧ decode 0x6000#16 = .ok .readUnchecked ∧ decode 0x7000#16 = .ok .available ∧ decode 0x8000#16 = .ok .isEmpty
    ∧ decode 0x9000#16 = .ok .eint ∧ decode 0xA000#16 = .ok .dint ∧ decode 0xB000#16 = .ok .status
    ∧ decode 0xC000#16 = .ok .readTuning ∧ decode 0x0000#16 = .error .unassignedOp
    ∧ decode 0x4100#16 = .error .reservedField ∧ decode 0x5001#16 = .error .operandNotZero

/-- R94: which words are illegal, and what the host's step on one does. -/
def Obligations.IllegalWordsFault : Prop :=
  (∀ w : Word, (∃ e, decode w = .error e) ↔
    w.extractLsb' 12 4 = 0x0#4 ∨ w.extractLsb' 12 4 = 0xD#4 ∨ w.extractLsb' 12 4 = 0xE#4 ∨ w.extractLsb' 12 4 = 0xF#4
      ∨ w.extractLsb' 8 4 ≠ 0#4 ∨ (w.extractLsb' 12 4 ≠ 0x4#4 ∧ w.extractLsb' 0 8 ≠ 0#8))
  ∧ ∀ (s : State) (w : Word) (e : Illegal), s.hwait = .none → s.hprog[s.hpc]? = some w → decode w = .error e →
    take .host s = .next { s with fault := some ⟨.illegalCommand, w⟩ }

/-- R91, R95: decoding the word of a command gives the command back. -/
def Obligations.EncodeDecodeRoundTrip : Prop :=
  ∀ i : Instr, i.WellFormed = true → ∃ w, encode i = some w ∧ decode w = .ok i

/-- R91, R92, R93, R95: a word that decodes to a command is that command's word, so no two words share a command and no
bit is ignored; its RSV is 0, SEND's operand is `w[7:0]`, and every other command's DATA is 0. -/
def Obligations.DecodedWords : Prop :=
  ∀ (w : Word) (i : Instr), decode w = .ok i →
    encode i = some w
      ∧ w.extractLsb' 8 4 = 0#4
      ∧ (w.extractLsb' 12 4 = 0x4#4 → i = .send (w.extractLsb' 0 8))
      ∧ (w.extractLsb' 12 4 ≠ 0x4#4 → w.extractLsb' 0 8 = 0#8 ∧ ∀ b, i ≠ .send b)

/-- R98: PRINT of a text of printable characters and escapes assembles to one SEND word per byte of the text. That a
semicolon inside the text is that character and starts no comment is the model's choice (notes/assumptions/16.md). -/
def Obligations.PrintAssemblesToSends : Prop :=
  ∀ items : List (List Char × Byte),
    (∀ x ∈ items,
      (∃ c : Char, 0x20 ≤ c.toNat ∧ c.toNat ≤ 0x7E ∧ c ≠ '"' ∧ c ≠ '\\' ∧ x = ([c], BitVec.ofNat 8 c.toNat))
        ∨ x = (['\\', 'r'], 0x0D#8) ∨ x = (['\\', 'n'], 0x0A#8) ∨ x = (['\\', '\\'], 0x5C#8)
        ∨ x = (['\\', '"'], 0x22#8)) →
    assembleLine ("PRINT \"".toList ++ (items.flatMap Prod.fst ++ ['"']))
      = some (items.map fun x => 0x4000#16 ||| x.2.setWidth 16)

/-! ## Configuration, launch and invariant -/

/-- R12: which configurations are legal, and that a step is refused exactly when the configuration is not. -/
def Obligations.LegalConfigurations : Prop :=
  (∀ c : Config, c.legal = true ↔
    2 ≤ c.tpb ∧ (c.tphb = c.tpb / 2 ∨ (1 ≤ c.tphb ∧ c.tphb < c.tpb)) ∧ c.tpb + c.tphb ≤ 2 ^ c.timerW - 1
      ∧ 1 ≤ c.targetDelta ∧ c.targetDelta ≤ 2 ^ c.timerW - 1 ∧ (∃ k, 1 ≤ k ∧ k ≤ 15 ∧ c.ringCap = 2 ^ k)
      ∧ (c.stopBits = 1 ∨ c.stopBits = 2) ∧ ∀ n, c.calMaxIter = some n → 1 ≤ n)
  ∧ ∀ s : State, (∃ r, step s = .refused r) ↔ s.cfg.legal = false

/-- R270: the launch state. -/
def Obligations.LaunchState : Prop :=
  ∀ (c : Config) (p : List Word) (r f : Bool), ∃ s, s = State.launch c p r f
    ∧ s.tar = 0 ∧ s.tmode = .stop ∧ s.ccr0 = 0 ∧ s.outmod0 = .none ∧ s.txIe = false ∧ s.ifg0 = false ∧ s.ccr1 = 0
    ∧ s.cap1 = false ∧ s.ccis1 = .rxd ∧ s.cm1 = .falling ∧ s.scci1 = false ∧ s.rxIe = false ∧ s.ifg1 = false
    ∧ s.prev1 = true ∧ s.txsr = 0 ∧ s.rxidx = 0 ∧ s.rxacc = 0 ∧ (∀ i, Memory.read i s.buf = none) ∧ s.head = 0
    ∧ s.tail = 0 ∧ s.calState = .uncal ∧ s.lastCap = none ∧ s.calIter = 0 ∧ s.tuneLo = c.tuneLoRst
    ∧ s.tuneHi = c.tuneHiRst ∧ s.refdiv = c.refdivRst ∧ s.savedRefdiv = 0 ∧ s.pstate = .inactive ∧ s.txd = .rel
    ∧ s.gie = false ∧ s.hprog = p ∧ s.hpc = 0 ∧ s.hwait = .none ∧ s.hlog = [] ∧ s.fault = none ∧ s.rxdIn = r
    ∧ s.refIn = f ∧ s.now = 0

/-- R55: the thirteen control registers, in every state: each field at its bit position and every other bit 0; and the
reset column of the table. -/
def Obligations.ControlRegisters : Prop :=
  (∀ s : State,
    (∃ v, controlRegister 0 s = some v ∧ (v.testBit 0 = true ↔ s.tmode = .cont) ∧ v < 2)
    ∧ controlRegister 1 s = some s.tar
    ∧ (∃ v, controlRegister 2 s = some v ∧ v.testBit 0 = s.ifg0 ∧ v.testBit 4 = s.txIe
      ∧ (v.testBit 5 = true ↔ s.outmod0 = .set) ∧ v.testBit 6 = false
      ∧ ∀ j, j ≠ 0 → j ≠ 4 → j ≠ 5 → v.testBit j = false)
    ∧ controlRegister 3 s = some s.ccr0
    ∧ (∃ v, controlRegister 4 s = some v ∧ v.testBit 0 = s.ifg1 ∧ v.testBit 3 = s.scci1 ∧ v.testBit 4 = s.rxIe
      ∧ v.testBit 8 = s.cap1 ∧ (v.testBit 12 = true ↔ s.ccis1 = .ref) ∧ (v.testBit 14 = true ↔ s.cm1 = .rising)
      ∧ ∀ j, j ≠ 0 → j ≠ 3 → j ≠ 4 → j ≠ 8 → j ≠ 12 → j ≠ 14 → v.testBit j = false)
    ∧ controlRegister 5 s = some s.ccr1
    ∧ controlRegister 6 s = some s.txsr.toNat
    ∧ (∃ v, controlRegister 7 s = some v ∧ (∀ j, j < 3 → v.testBit j = s.rxidx.getLsbD j)
      ∧ (∀ j, 3 ≤ j → j < 8 → v.testBit j = false) ∧ (∀ j, j < 8 → v.testBit (8 + j) = s.rxacc.getLsbD j) ∧ v < 2 ^ 16)
    ∧ controlRegister 8 s = some s.head
    ∧ controlRegister 9 s = some s.tail
    ∧ (∃ v, controlRegister 10 s = some v ∧ (∀ j, j < 8 → v.testBit j = s.tuneLo.getLsbD j)
      ∧ (∀ j, j < 4 → v.testBit (8 + j) = s.tuneHi.getLsbD j) ∧ v < 2 ^ 12)
    ∧ (∃ v, controlRegister 11 s = some v ∧ (∀ j, j < 2 → v.testBit j = s.refdiv.getLsbD j)
      ∧ (∀ j, j < 2 → v.testBit (2 + j) = s.savedRefdiv.getLsbD j) ∧ v < 2 ^ 4)
    ∧ (∃ v, controlRegister 12 s = some v
      ∧ (v % 4 = 0 ↔ s.pstate = .inactive) ∧ (v % 4 = 1 ↔ s.pstate = .active) ∧ (v % 4 = 2 ↔ s.pstate = .holding)
      ∧ (v / 4 % 4 = 0 ↔ s.txd = .rel) ∧ (v / 4 % 4 = 1 ↔ s.txd = .lo) ∧ (v / 4 % 4 = 2 ↔ s.txd = .hi)
      ∧ v.testBit 4 = s.gie ∧ v < 2 ^ 5)
    ∧ ∀ n, 12 < n → controlRegister n s = none)
  ∧ ∀ (c : Config) (p : List Word) (r f : Bool), ∃ s, s = State.launch c p r f
    ∧ (∀ n, n ≤ 12 → n ≠ 10 → n ≠ 11 → controlRegister n s = some 0)
    ∧ controlRegister 10 s = some (c.tuneHiRst.toNat * 256 + c.tuneLoRst.toNat)
    ∧ controlRegister 11 s = some c.refdivRst.toNat

/-- R56, R270: the invariant holds at every legal launch. -/
def Obligations.LaunchMeetsInvariant : Prop :=
  ∀ (c : Config) (p : List Word) (r f : Bool), c.legal = true → (State.launch c p r f).Inv

/-- R56: every step keeps the invariant. -/
def Obligations.StepKeepsInvariant : Prop :=
  ∀ s t : State, s.Inv → step s = .next t → t.Inv

/-- R70, R75, R241: in a state of the invariant without a fault, the machine always has a next state: no slot without a
value is read, no slot out of range is reached, and nothing is refused. -/
def Obligations.InvariantStatesAlwaysStep : Prop :=
  ∀ s : State, s.Inv → s.fault = none → ∃ t, step s = .next t

/-! ## The step (40_timer.md R110, R116, R118; 45_port_control.md R219, R220) -/

/-- R118, R220: a host step decodes the word at HPC and runs it; the step adds only the schedule's next entry. The last
clause, that the host's command runs and no tick when the schedule is empty, is the model's default order
(notes/assumptions/6.md). -/
def Obligations.StepRunsDecodedCommand : Prop :=
  ∀ (s : State) (w : Word) (i : Instr), s.cfg.legal = true → s.fault = none → s.hwait = .none → urgent s = false →
    s.hprog[s.hpc]? = some w → decode w = .ok i →
    (∀ cs, s.sched = .host :: cs → step s = exec i { s with sched := cs })
      ∧ (s.sched = [] → commandReady w s = true → step s = exec i s)

/-- The model's own convention (notes/assumptions/9.md): a word placed by withFetchWord is what the very next step
runs, from every state with a legal configuration. -/
def Obligations.FetchWordRunsNext : Prop :=
  ∀ (s : State) (w : Nat) (i : Instr), s.cfg.legal = true → decode (BitVec.ofNat 16 w) = .ok i → w < 2 ^ 16 →
    step (s.withFetchWord 16 w) = exec i { s.withFetchWord 16 w with sched := s.sched }

/-- R110: the table of the steps and when each is enabled, and that any enabled step may be taken next: the machine takes
it when the schedule asks for it (notes/assumptions/6.md), but for a tick while the host has a step, which C14 of
90_conflicts.md excludes (notes/assumptions/23.md). -/
def Obligations.EnabledSteps : Prop :=
  ∀ s : State,
    (enabled .txh s = true ↔ s.fault = none ∧ s.ifg0 = true ∧ s.txIe = true ∧ s.gie = true)
    ∧ (enabled .holdh s = true ↔ s.fault = none ∧ s.ifg0 = true ∧ s.pstate = .holding
        ∧ enabled .rxcaph s = false ∧ enabled .rxsmph s = false)
    ∧ (enabled .rxcaph s = true ↔
        s.fault = none ∧ s.ifg1 = true ∧ s.rxIe = true ∧ s.gie = true ∧ s.cap1 = true)
    ∧ (enabled .rxsmph s = true ↔
        s.fault = none ∧ s.ifg1 = true ∧ s.rxIe = true ∧ s.gie = true ∧ s.cap1 = false)
    ∧ (enabled .calh s = true ↔
        s.fault = none ∧ s.ifg1 = true ∧ (s.calState = .prime ∨ s.calState = .run))
    ∧ (enabled .tick s = true ↔ s.fault = none ∧ ∀ c ∈ [Choice.txh, .holdh, .rxcaph, .rxsmph, .calh], enabled c s = false)
    ∧ (∀ line v, enabled (.env line v) s = true ↔ s.fault = none)
    ∧ (enabled .host s = true ↔ enabled .tick s = true ∧ ∃ w, s.hprog[s.hpc]? = some w
        ∧ ((s.hwait = .none
            ∧ ¬ ((∃ b, decode w = .ok (.send b)) ∧ s.pstate = .active ∧ s.txIe = true)
            ∧ ¬ (decode w = .ok .shutdown ∧ s.pstate ≠ .inactive ∧ s.txIe = true))
          ∨ (s.hwait = .shutdown ∧ s.pstate = .inactive)
          ∨ (s.hwait = .cal ∧ (s.calState = .done ∨ s.calState = .fail))))
    ∧ ∀ c, s.cfg.legal = true → enabled c s = true →
      ((c = .tick → enabled .host s = false) → step { s with sched := c :: s.sched } = take c s)
      ∧ (c = .tick → enabled .host s = true → step { s with sched := c :: s.sched } = .next s)

/-- R110, and C14 of 90_conflicts.md: a step of the machine is an enabled step of the table and no tick while the host
has a step, or the schedule asked for one that is not and only the schedule changed. -/
def Obligations.StepTakesAnEnabledStep : Prop :=
  ∀ s t : State, step s = .next t →
    s.fault = none
      ∧ ((s.sched = [] ∧ ∃ c, hostFirst s c ∧ Moves c s t)
        ∨ ∃ c cs, s.sched = c :: cs
          ∧ ((hostFirst s c ∧ Moves c { s with sched := cs } t)
            ∨ ((enabled c s = false ∨ (c = .tick ∧ enabled .host s = true)) ∧ t = { s with sched := cs })))

/-! ## Faults (60_exceptions.md) -/

/-- R241: raising a fault writes FAULT and nothing else, and a faulted state has no step and is no end state. -/
def Obligations.FaultedStateHasNoStep : Prop :=
  (∀ (s : State) (code : FaultCode) (w : Word), s.hprog[s.hpc]? = some w →
    raiseFault code s = .next { s with fault := some ⟨code, w⟩ })
  ∧ ∀ (s : State) (r : FaultRecord), s.fault = some r →
    (∀ c, enabled c s = false) ∧ quiescent s = false ∧ (s.Inv → hostDone s = false)
      ∧ (s.cfg.legal = true → step s = .fault (.recorded r.code r.word))

/-- R240: the fault codes, which instruction raises each, and exactly when; nothing else raises a fault. -/
def Obligations.FaultConditions : Prop :=
  (faultNumber .illegalCommand = 1 ∧ faultNumber .uncheckedReadEmpty = 2 ∧ faultNumber .sendInactive = 3
    ∧ faultNumber .initActive = 4 ∧ faultNumber .initWithGie = 5 ∧ faultNumber .shutdownInactive = 6
    ∧ faultNumber .calibrateActive = 7)
  ∧ (∀ (s : State) (w : Word), s.fault = none → s.hwait = .none → s.hprog[s.hpc]? = some w →
    (take .host s = .next { s with fault := some ⟨.illegalCommand, w⟩ } ↔ ∃ e, decode w = .error e))
  ∧ (∀ (s : State) (i : Instr) (code : FaultCode) (w : Word), s.fault = none → s.hprog[s.hpc]? = some w →
    (exec i s = .next { s with fault := some ⟨code, w⟩ } ↔
      (i = .readUnchecked ∧ code = .uncheckedReadEmpty ∧ s.head = s.tail)
      ∨ ((∃ b, i = .send b) ∧ code = .sendInactive ∧ s.pstate ≠ .active)
      ∨ (i = .init ∧ code = .initActive ∧ s.pstate ≠ .inactive)
      ∨ (i = .init ∧ code = .initWithGie ∧ s.pstate = .inactive ∧ s.gie = true)
      ∨ (i = .shutdown ∧ code = .shutdownInactive ∧ s.pstate = .inactive)
      ∨ (i = .calibrate ∧ code = .calibrateActive ∧ s.pstate ≠ .inactive)))
  ∧ ∀ (i : Instr) (s t : State), exec i s = .next t →
    t.fault = s.fault ∨ ∃ code w, s.hprog[s.hpc]? = some w ∧ t = { s with fault := some ⟨code, w⟩ }

/-! ## Calibration (44_calibration.md) -/

/-- R190: CALIBRATE while INACTIVE loads the preset or starts the loop; in every other port state it faults. -/
def Obligations.CalibrateResult : Prop :=
  ∀ s : State,
    (s.pstate = .inactive → s.cfg.calEnabled = false →
      exec .calibrate s = .next { s with
        tuneLo := s.cfg.calPresetLo, tuneHi := s.cfg.calPresetHi, calState := .preset, hlog := s.hlog ++ [0x0003#16],
        hpc := s.hpc + 1 })
    ∧ (s.pstate = .inactive → s.cfg.calEnabled = true →
      exec .calibrate s = .next { s with
        savedRefdiv := s.refdiv, refdiv := s.cfg.calRefdiv, ccis1 := .ref, cm1 := .rising, cap1 := true, ifg1 := false,
        rxIe := false, prev1 := s.refIn, tmode := .cont, calIter := 0, lastCap := none, calState := .prime,
        hwait := .cal })
    ∧ (s.pstate ≠ .inactive → ∀ w, s.hprog[s.hpc]? = some w →
      exec .calibrate s = .next { s with fault := some ⟨.calibrateActive, w⟩ })

/-- R191, R192, R194, R195: CALH primes, measures, steps and ends the loop; `delta` is `cap −W LAST_CAP`. The clause of
a LAST_CAP with no value, which no run reaches, is the model's free value (notes/assumptions/11.md): it says only what
happens whatever that value is. -/
def Obligations.CalhResult : Prop :=
  ∀ s : State, s.ifg1 = true →
    (s.calState = .prime →
      exec .calh s = .next { s with ifg1 := false, lastCap := some s.ccr1, calState := .run })
    ∧ (s.calState = .run → s.lastCap = none → ∃ t, exec .calh s = .next t
      ∧ t.ifg1 = false ∧ t.lastCap = some s.ccr1 ∧ t.freeCount = s.freeCount + 1)
    ∧ ∀ last, s.calState = .run → s.lastCap = some last → ∀ delta, delta = subW s.cfg s.ccr1 last →
      (delta = s.cfg.targetDelta →
        exec .calh s = .next { s with
          ifg1 := false, lastCap := some s.ccr1, refdiv := s.savedRefdiv, cap1 := false, ccis1 := .rxd, cm1 := .falling,
          rxIe := false, tmode := .stop, calState := .done })
      ∧ ∀ down, (down = true ↔ (s.cfg.calSense = .convergent ∧ s.cfg.targetDelta < delta)
            ∨ (s.cfg.calSense = .asWritten ∧ delta < s.cfg.targetDelta)) →
        ∀ code, code = (if down = true then stepDown (s.tuneHi, s.tuneLo) else stepUp (s.tuneHi, s.tuneLo)) →
        delta ≠ s.cfg.targetDelta →
        ((∃ n, s.cfg.calMaxIter = some n ∧ n ≤ s.calIter + 1) →
          exec .calh s = .next { s with
            ifg1 := false, lastCap := some s.ccr1, tuneHi := code.1, tuneLo := code.2, calIter := s.calIter + 1,
            refdiv := s.savedRefdiv, cap1 := false, ccis1 := .rxd, cm1 := .falling, rxIe := false, tmode := .stop,
            calState := .fail })
        ∧ ((∀ n, s.cfg.calMaxIter = some n → s.calIter + 1 < n) →
          exec .calh s = .next { s with
            ifg1 := false, lastCap := some s.ccr1, tuneHi := code.1, tuneLo := code.2, calIter := s.calIter + 1 })

/-- R193: the bang-bang steps on the fine and coarse registers, as numbers. -/
def Obligations.TuningSteps : Prop :=
  ∀ (hi : BitVec 4) (lo : BitVec 8),
    (stepDown (hi, lo)).2.toNat = (lo.toNat + 255) % 256
    ∧ (stepDown (hi, lo)).1.toNat = (if lo.toNat = 0 ∧ 0 < hi.toNat then hi.toNat - 1 else hi.toNat)
    ∧ (stepUp (hi, lo)).2.toNat = (lo.toNat + 1) % 256
    ∧ (stepUp (hi, lo)).1.toNat = (if lo.toNat = 255 ∧ hi.toNat < 15 then hi.toNat + 1 else hi.toNat)

/-- R197 (a): the coarse register moves only from the wrap of the fine one, whatever the step. -/
def Obligations.CoarseMovesAtFineWrap : Prop :=
  ∀ s t : State, exec .calh s = .next t → t.tuneHi ≠ s.tuneHi →
    (s.tuneLo = 0#8 ∧ t.tuneLo = 255#8 ∧ t.tuneHi.toNat + 1 = s.tuneHi.toNat)
      ∨ (s.tuneLo = 255#8 ∧ t.tuneLo = 0#8 ∧ t.tuneHi.toNat = s.tuneHi.toNat + 1)

/-- R197 (b): with an oscillator that runs strictly faster at every higher code, one code that is exact, and no bound
in the way, the CONVERGENT loop ends in DONE at that code within the initial error plus one measurements. -/
def Obligations.CalibrationConverges : Prop :=
  ∀ (s : State) (f : Nat → Nat) (target dist last : Nat),
    s.cfg.legal = true → s.cfg.calSense = .convergent → s.calState = .run → s.lastCap = some last →
    last < 2 ^ s.cfg.timerW →
    (∀ a b, a < b → b < 4096 → f a < f b) → (∀ a, a < 4096 → f a < 2 ^ s.cfg.timerW) →
    target < 4096 → f target = s.cfg.targetDelta →
    (dist + target = tuneCode s ∨ dist + tuneCode s = target) →
    (∀ n, s.cfg.calMaxIter = some n → s.calIter + dist < n) →
    ∃ t, calibrationRun f (dist + 1) s = .next t ∧ t.calState = .done ∧ tuneCode t = target
      ∧ t.calIter = s.calIter + dist

/-! ## Port control (45_port_control.md) -/

/-- R210: INIT while INACTIVE and with GIE 0 opens the port; otherwise it faults, INIT_ACTIVE first. -/
def Obligations.InitResult : Prop :=
  ∀ s : State,
    (s.pstate = .inactive → s.gie = false →
      exec .init s = .next { s with
        txd := .hi, outmod0 := .set, txIe := false, ifg0 := false, cap1 := true, ccis1 := .rxd, cm1 := .falling,
        rxIe := true, ifg1 := false, prev1 := s.rxdIn, rxidx := 0, rxacc := 0, tmode := .cont, pstate := .active,
        hpc := s.hpc + 1 })
    ∧ ∀ w, s.hprog[s.hpc]? = some w →
      (s.pstate ≠ .inactive → exec .init s = .next { s with fault := some ⟨.initActive, w⟩ })
      ∧ (s.pstate = .inactive → s.gie = true → exec .init s = .next { s with fault := some ⟨.initWithGie, w⟩ })

/-- R211, R212: SHUTDOWN faults when INACTIVE, is held while a frame is in flight, and else begins the idle hold, as
SHUTDOWN_START does. -/
def Obligations.ShutdownResult : Prop :=
  ∀ s : State,
    (s.pstate ≠ .inactive → s.txIe = false →
      exec .shutdown s = .next { s with
        txd := .hi, ccr0 := (s.tar + s.cfg.tpb) % 2 ^ s.cfg.timerW, ifg0 := false, pstate := .holding,
        hwait := .shutdown })
    ∧ exec .shutdownStart s = .next { s with
        txd := .hi, ccr0 := (s.tar + s.cfg.tpb) % 2 ^ s.cfg.timerW, ifg0 := false, pstate := .holding,
        hwait := .shutdown }
    ∧ (s.pstate ≠ .inactive → s.txIe = true → exec .shutdown s = .next s)
    ∧ (s.pstate = .inactive → ∀ w, s.hprog[s.hpc]? = some w →
      exec .shutdown s = .next { s with fault := some ⟨.shutdownInactive, w⟩ })

/-- R213: HOLDH releases the port when no RX handler is enabled, whatever GIE is. -/
def Obligations.HoldhResult : Prop :=
  ∀ s : State, s.ifg0 = true → s.pstate = .holding → rxcaphEnabled s = false → rxsmphEnabled s = false →
    exec .holdh s = .next { s with
      ifg0 := false, txd := .rel, outmod0 := .none, tmode := .stop, rxIe := false, ifg1 := false, cap1 := false,
      rxidx := 0, rxacc := 0, pstate := .inactive }

/-- R196, R218: the completions of CALIBRATE and of SHUTDOWN. -/
def Obligations.CompletionResults : Prop :=
  ∀ s : State, urgent s = false →
    (s.hwait = .cal → s.calState = .done →
      exec .calibrateComplete s = .next { s with hlog := s.hlog ++ [0x0001#16], hwait := .none, hpc := s.hpc + 1 })
    ∧ (s.hwait = .cal → s.calState = .fail →
      exec .calibrateComplete s = .next { s with hlog := s.hlog ++ [0x0002#16], hwait := .none, hpc := s.hpc + 1 })
    ∧ (s.hwait = .shutdown → s.pstate = .inactive →
      exec .shutdownComplete s = .next { s with hwait := .none, hpc := s.hpc + 1 })

/-- R214, R215: EINT and DINT write GIE and HPC only, and a pending flag whose enable is 1 is urgent once GIE is 1. -/
def Obligations.InterruptEnableResult : Prop :=
  ∀ s : State,
    exec .eint s = .next { s with gie := true, hpc := s.hpc + 1 }
    ∧ exec .dint s = .next { s with gie := false, hpc := s.hpc + 1 }
    ∧ ∀ t, exec .eint s = .next t →
      ((s.ifg0 = true ∧ s.txIe = true) ∨ (s.ifg1 = true ∧ s.rxIe = true)) → urgent t = true

/-- R216: STATUS appends one word whose bits 7:0 are the conditions of the table and whose bits 15:8 are 0. R217:
READ_TUNING appends `{0b0000, TUNE_HI, TUNE_LO}`. -/
def Obligations.ObservationResults : Prop :=
  (∀ s : State, ∃ w : Word, exec .status s = .next { s with hlog := s.hlog ++ [w], hpc := s.hpc + 1 }
    ∧ (w.getLsbD 0 = true ↔ s.pstate ≠ .inactive) ∧ (w.getLsbD 1 = true ↔ s.txIe = true)
    ∧ (w.getLsbD 2 = true ↔ s.pstate ≠ .inactive ∧ s.cap1 = false) ∧ (w.getLsbD 3 = true ↔ s.calState = .done)
    ∧ (w.getLsbD 4 = true ↔ s.calState = .fail) ∧ (w.getLsbD 5 = true ↔ s.calState = .preset)
    ∧ (w.getLsbD 6 = true ↔ s.gie = true) ∧ (w.getLsbD 7 = true ↔ s.head = s.tail)
    ∧ ∀ j, 8 ≤ j → w.getLsbD j = false)
  ∧ ∀ s : State, ∃ w : Word, exec .readTuning s = .next { s with hlog := s.hlog ++ [w], hpc := s.hpc + 1 }
    ∧ w.toNat = s.tuneHi.toNat * 256 + s.tuneLo.toNat

/-! ## Transmit (42_transmit.md) -/

/-- R150: SEND while ACTIVE starts a frame, or is held while one is in flight; otherwise it faults. -/
def Obligations.SendResult : Prop :=
  ∀ (s : State) (b : Byte),
    (s.pstate = .active → s.txIe = false →
      exec (.send b) s = .next { s with
        ccr0 := (s.tar + s.cfg.tpb) % 2 ^ s.cfg.timerW, outmod0 := .set, ifg0 := false, txIe := true,
        txsr := frame s.cfg b, hpc := s.hpc + 1 })
    ∧ (s.pstate = .active → s.txIe = true → exec (.send b) s = .next s)
    ∧ (s.pstate ≠ .active → ∀ w, s.hprog[s.hpc]? = some w →
      exec (.send b) s = .next { s with fault := some ⟨.sendInactive, w⟩ })

/-- R151: the bits of the frame image: start bit 0, then b from bit 0 up, then the stop bits, then zeros. -/
def Obligations.FrameBits : Prop :=
  ∀ (c : Config) (b : Byte), (c.stopBits = 1 ∨ c.stopBits = 2) →
    (frame c b).getLsbD 0 = false
    ∧ (∀ i, i < 8 → (frame c b).getLsbD (i + 1) = b.getLsbD i)
    ∧ (∀ i, 9 ≤ i → i ≤ 8 + c.stopBits → (frame c b).getLsbD i = true)
    ∧ ∀ i, 8 + c.stopBits < i → (frame c b).getLsbD i = false

/-- R152: TXH drives the low bit of TXSR, shifts, reschedules, and ends the frame when TXSR becomes 0. -/
def Obligations.TxhResult : Prop :=
  ∀ s : State, s.ifg0 = true → s.txIe = true → s.gie = true →
    exec .txh s = .next { s with
      ifg0 := false, ccr0 := (s.ccr0 + s.cfg.tpb) % 2 ^ s.cfg.timerW,
      txd := if s.txsr.getLsbD 0 = true then .hi else .lo, txsr := s.txsr >>> 1,
      txIe := if s.txsr.toNat / 2 = 0 then false else true }

/-! ## Receive (43_receive.md) -/

/-- R171: RXCAPH schedules the first sample one and a half bit periods past the edge and goes to COMPARE. -/
def Obligations.RxcaphResult : Prop :=
  ∀ s : State, s.ifg1 = true → s.rxIe = true → s.gie = true → s.cap1 = true →
    exec .rxcaph s = .next { s with
      ifg1 := false, ccr1 := (s.ccr1 + s.cfg.tphb + s.cfg.tpb) % 2 ^ s.cfg.timerW, cap1 := false, rxidx := 0,
      rxacc := 0 }

/-- R172, R173: RXSMPH takes a sample; the eighth ends the frame with a push, dropped when the ring is full. A
HEAD that names no slot, which no run reaches, stops the model (R16, notes/assumptions/10.md). -/
def Obligations.RxsmphResult : Prop :=
  ∀ s : State, s.ifg1 = true → s.rxIe = true → s.gie = true → s.cap1 = false →
    ∀ acc : Byte, acc = s.rxacc ||| ((if s.scci1 = true then 1#8 else 0#8) <<< s.rxidx.toNat) →
    (s.rxidx ≠ 7#3 →
      exec .rxsmph s = .next { s with
        ifg1 := false, ccr1 := (s.ccr1 + s.cfg.tpb) % 2 ^ s.cfg.timerW, rxacc := acc, rxidx := s.rxidx + 1 })
    ∧ (s.rxidx = 7#3 → (s.head + 1) % s.cfg.ringCap = s.tail →
      exec .rxsmph s = .next { s with
        ifg1 := false, ccr1 := (s.ccr1 + s.cfg.tpb) % 2 ^ s.cfg.timerW, rxacc := 0, rxidx := 0, cap1 := true })
    ∧ (s.rxidx = 7#3 → (s.head + 1) % s.cfg.ringCap ≠ s.tail → s.head < s.cfg.ringCap →
      ∃ buf, exec .rxsmph s = .next { s with
          ifg1 := false, ccr1 := (s.ccr1 + s.cfg.tpb) % 2 ^ s.cfg.timerW, rxacc := 0, rxidx := 0, cap1 := true,
          buf := buf, head := (s.head + 1) % s.cfg.ringCap }
        ∧ Memory.read s.head buf = some acc ∧ ∀ a, a ≠ s.head → Memory.read a buf = Memory.read a s.buf)
    ∧ (s.rxidx = 7#3 → (s.head + 1) % s.cfg.ringCap ≠ s.tail → s.cfg.ringCap ≤ s.head →
      exec .rxsmph s = .fault (.slotOutOfRange s.head))

/-- R72, R172: eight samples taken from an empty accumulator make the byte whose bit i is sample i. -/
def Obligations.SamplesAssembleByte : Prop :=
  ∀ v : Nat → Bool, ∀ i, i < 8 →
    ((List.range 8).foldl (fun acc k => withSample acc (BitVec.ofNat 3 k) (v k)) 0#8).getLsbD i = v i

/-! ## The ring buffer (41_ringbuffer.md) -/

/-- R130: a push writes the slot at HEAD and advances HEAD; a push to a full ring changes nothing. A HEAD that names no
slot, which no run reaches, stops the model (R16, notes/assumptions/10.md). -/
def Obligations.PushResult : Prop :=
  ∀ (s : State) (b : Byte),
    ((s.head + 1) % s.cfg.ringCap = s.tail → exec (.push b) s = .next s)
    ∧ ((s.head + 1) % s.cfg.ringCap ≠ s.tail → s.head < s.cfg.ringCap →
      ∃ buf, exec (.push b) s = .next { s with buf := buf, head := (s.head + 1) % s.cfg.ringCap }
        ∧ Memory.read s.head buf = some b ∧ ∀ a, a ≠ s.head → Memory.read a buf = Memory.read a s.buf)
    ∧ ((s.head + 1) % s.cfg.ringCap ≠ s.tail → s.cfg.ringCap ≤ s.head →
      exec (.push b) s = .fault (.slotOutOfRange s.head))

/-- R131: READ returns the byte at TAIL and advances TAIL, or logs 0x0000 on an empty ring; a slot that holds no value
or does not exist, which no run reaches, stops the model (R16, notes/assumptions/10.md). -/
def Obligations.ReadResult : Prop :=
  ∀ s : State,
    (s.head = s.tail → exec .read s = .next { s with hlog := s.hlog ++ [0x0000#16], hpc := s.hpc + 1 })
    ∧ (s.head ≠ s.tail → s.tail < s.cfg.ringCap →
      (∀ b, Memory.read s.tail s.buf = some b →
        exec .read s = .next { s with
          tail := (s.tail + 1) % s.cfg.ringCap, hlog := s.hlog ++ [0x0100#16 ||| b.setWidth 16], hpc := s.hpc + 1 })
      ∧ (Memory.read s.tail s.buf = none → exec .read s = .fault (.slotNoValue s.tail)))
    ∧ (s.head ≠ s.tail → s.cfg.ringCap ≤ s.tail → exec .read s = .fault (.slotOutOfRange s.tail))

/-- R132: READ_UNCHECKED returns the byte at TAIL and advances TAIL, and faults on an empty ring. The clauses of a slot
that holds no value and of an index that names no slot, which no run reaches, are the model's (R16,
notes/assumptions/10.md). -/
def Obligations.ReadUncheckedResult : Prop :=
  ∀ s : State,
    (s.head = s.tail → ∀ w, s.hprog[s.hpc]? = some w →
      exec .readUnchecked s = .next { s with fault := some ⟨.uncheckedReadEmpty, w⟩ })
    ∧ (s.head ≠ s.tail → s.tail < s.cfg.ringCap →
      (∀ b, Memory.read s.tail s.buf = some b →
        exec .readUnchecked s = .next { s with
          tail := (s.tail + 1) % s.cfg.ringCap, hlog := s.hlog ++ [b.setWidth 16], hpc := s.hpc + 1 })
      ∧ (Memory.read s.tail s.buf = none → exec .readUnchecked s = .fault (.slotNoValue s.tail)))
    ∧ (s.head ≠ s.tail → s.cfg.ringCap ≤ s.tail → exec .readUnchecked s = .fault (.slotOutOfRange s.tail))

/-- R133: AVAILABLE appends the count, `(HEAD − TAIL) mod RING_CAP`, which lies in `0 .. RING_CAP − 1`. R134: IS_EMPTY
appends 0x0001 when `HEAD = TAIL` and 0x0000 otherwise. -/
def Obligations.RingCountResults : Prop :=
  ∀ s : State,
    (∃ w : Word, exec .available s = .next { s with hlog := s.hlog ++ [w], hpc := s.hpc + 1 }
      ∧ (s.RingOk → (w.toNat : Int) = ((s.head : Int) - (s.tail : Int)) % (s.cfg.ringCap : Int)
        ∧ w.toNat ≤ s.cfg.ringCap - 1))
    ∧ exec .isEmpty s = .next { s with
      hlog := s.hlog ++ [if s.head = s.tail then 0x0001#16 else 0x0000#16], hpc := s.hpc + 1 }

/-- R135: the capacity law. -/
def Obligations.CapacityLaw : Prop :=
  ∀ (s : State) (bs : List Byte), s.RingOk → s.head = s.tail → bs.length = s.cfg.ringCap - 1 →
    ∃ t, ringRun (bs.map RingOp.push) s = some (bs, t)
      ∧ exec .available t = .next { t with hlog := t.hlog ++ [BitVec.ofNat 16 (s.cfg.ringCap - 1)], hpc := t.hpc + 1 }
      ∧ (∀ b, exec (.push b) t = .next t)
      ∧ ∃ u, exec .read t = .next u ∧ ∀ b, ∃ v, exec (.push b) u = .next v ∧ v.head ≠ u.head
        ∧ Memory.read u.head v.buf = some b

/-- R136: the FIFO law: over any interleaving of pushes and READs, the bytes in the ring at the start and the accepted
pushes are, in order, the non-empty READ results and then the bytes left in the ring. -/
def Obligations.FifoLaw : Prop :=
  ∀ (s : State) (ops : List RingOp), s.RingOk →
    ∃ accepted t log, ringRun ops s = some (accepted, t) ∧ t.hlog = s.hlog ++ log
      ∧ ringContents s ++ accepted = readResults log ++ ringContents t

/-! ## Timer and environment (40_timer.md) -/

/-- R111 to R114: the tick, with every condition of its pseudocode. -/
def Obligations.TickResult : Prop :=
  ∀ s : State, urgent s = false →
    ∀ in1, in1 = (if s.ccis1 = .ref then s.refIn else s.rxdIn) →
    (s.tmode = .stop → exec .tick s = .next { s with now := s.now + 1, prev1 := in1 })
    ∧ (s.tmode = .cont → ∀ tar ch0 cap cmp, tar = (s.tar + 1) % 2 ^ s.cfg.timerW →
      (ch0 = true ↔ tar = s.ccr0) →
      (cap = true ↔ s.cap1 = true ∧ ((s.cm1 = .falling ∧ s.prev1 = true ∧ in1 = false)
        ∨ (s.cm1 = .rising ∧ s.prev1 = false ∧ in1 = true))) →
      (cmp = true ↔ s.cap1 = false ∧ tar = s.ccr1) →
      exec .tick s = .next { s with
        now := s.now + 1, tar := tar,
        txd := if ch0 = true ∧ s.outmod0 = .set ∧ s.txd ≠ .rel then .hi else s.txd,
        ifg0 := ch0 || s.ifg0,
        ccr1 := if cap = true then tar else s.ccr1,
        scci1 := if cmp = true then in1 else s.scci1,
        ifg1 := cap || cmp || s.ifg1,
        prev1 := in1 })

/-- R117: ENV sets the named input and nothing else. -/
def Obligations.EnvResult : Prop :=
  ∀ (s : State) (v : Bool),
    exec (.env .rxd v) s = .next { s with rxdIn := v } ∧ exec (.env .ref v) s = .next { s with refIn := v }

/-- R115: a compare register written `TAR +W d` fires at the d-th counting tick and at no earlier tick. -/
def Obligations.SchedulingLaw : Prop :=
  ∀ (s : State) (d k : Nat), s.tmode = .cont → s.tar < 2 ^ s.cfg.timerW → 1 ≤ d → d ≤ 2 ^ s.cfg.timerW - 1 → k ≤ d →
    (s.ccr0 = (s.tar + d) % 2 ^ s.cfg.timerW → s.ifg0 = false →
      ((Nat.iterate tickBody k s).ifg0 = true ↔ k = d))
    ∧ (s.cap1 = false → s.ccr1 = (s.tar + d) % 2 ^ s.cfg.timerW → s.ifg1 = false →
      ((Nat.iterate tickBody k s).ifg1 = true ↔ k = d))

/-! ## The whole machine -/

/-- What the meanings answer where the step relation has no step (the model's choice, notes/assumptions/7.md, 12.md and
14.md, from R16 and R110): an internal step that is not enabled is held, so nothing changes; a command that faults with
no command word at HPC stops the model. -/
def Obligations.StepsOutsideTheTable : Prop :=
  ∀ s : State,
    (urgent s = true → exec .tick s = .next s)
    ∧ (txhEnabled s = false → exec .txh s = .next s) ∧ (rxcaphEnabled s = false → exec .rxcaph s = .next s)
    ∧ (rxsmphEnabled s = false → exec .rxsmph s = .next s) ∧ (calhEnabled s = false → exec .calh s = .next s)
    ∧ (holdhEnabled s = false → exec .holdh s = .next s)
    ∧ (¬ (s.hwait = .shutdown ∧ s.pstate = .inactive ∧ urgent s = false) → exec .shutdownComplete s = .next s)
    ∧ (¬ (s.hwait = .cal ∧ (s.calState = .done ∨ s.calState = .fail) ∧ urgent s = false) →
      exec .calibrateComplete s = .next s)
    ∧ (s.hprog[s.hpc]? = none →
      (s.head = s.tail → exec .readUnchecked s = .fault .noCommandWord)
      ∧ (s.pstate ≠ .active → ∀ b, exec (.send b) s = .fault .noCommandWord)
      ∧ (s.pstate ≠ .inactive ∨ s.gie = true → exec .init s = .fault .noCommandWord)
      ∧ (s.pstate = .inactive → exec .shutdown s = .fault .noCommandWord)
      ∧ (s.pstate ≠ .inactive → exec .calibrate s = .fault .noCommandWord))

/-- R70: only push writes the ring storage, one slot, the one at HEAD; every other slot reads as before. -/
def Obligations.StorageWrittenAtHeadOnly : Prop :=
  ∀ (i : Instr) (s t : State), exec i s = .next t →
    (∀ a, a ≠ s.head → Memory.read a t.buf = Memory.read a s.buf)
    ∧ ((∀ b, i ≠ .push b) → i ≠ .rxsmph → ∀ a, Memory.read a t.buf = Memory.read a s.buf)
    ∧ (Memory.wf s.buf → Memory.wf t.buf)

/-- R31, R38, R44, R46, R48, R49, R50, R52, R78: which instructions write each of these elements. -/
def Obligations.ElementWriters : Prop :=
  ∀ (i : Instr) (s t : State), exec i s = .next t →
    (t.head ≠ s.head → i = .rxsmph ∨ ∃ b, i = .push b)
    ∧ (t.tail ≠ s.tail → i = .read ∨ i = .readUnchecked)
    ∧ (t.tar ≠ s.tar ∨ t.now ≠ s.now → i = .tick)
    ∧ (t.txsr ≠ s.txsr → i = .txh ∨ ∃ b, i = .send b)
    ∧ (t.tuneHi ≠ s.tuneHi ∨ t.tuneLo ≠ s.tuneLo → i = .calibrate ∨ i = .calh)
    ∧ (t.pstate ≠ s.pstate → i = .init ∨ i = .shutdown ∨ i = .shutdownStart ∨ i = .holdh)
    ∧ (t.gie ≠ s.gie → i = .eint ∨ i = .dint)
    ∧ (t.rxdIn ≠ s.rxdIn ∨ t.refIn ≠ s.refIn → ∃ line v, i = .env line v)
    ∧ t.cfg = s.cfg ∧ t.hprog = s.hprog ∧ t.sched = s.sched
    ∧ (t.hlog ≠ s.hlog → (∃ w, t.hlog = s.hlog ++ [w])
      ∧ i ∈ [Instr.read, .readUnchecked, .available, .isEmpty, .status, .readTuning, .calibrate, .calibrateComplete])

/-- R219: a step advances HPC by one or leaves it, advances it only when the host waits on nothing afterwards and no
fault is raised, and never changes the host program. -/
def Obligations.HostCounterAdvance : Prop :=
  ∀ s t : State, step s = .next t →
    t.hprog = s.hprog
    ∧ (t.hpc = s.hpc ∨ (t.hpc = s.hpc + 1 ∧ s.hpc < s.hprog.length ∧ t.hwait = .none ∧ t.fault = none))

/-- R221: PSTATE moves only along INACTIVE to ACTIVE, ACTIVE to HOLDING, HOLDING to INACTIVE. -/
def Obligations.PortLifecycle : Prop :=
  ∀ s t : State, s.Inv → step s = .next t → t.pstate ≠ s.pstate →
    (s.pstate = .inactive ∧ t.pstate = .active) ∨ (s.pstate = .active ∧ t.pstate = .holding)
      ∨ (s.pstate = .holding ∧ t.pstate = .inactive)

/-- R244: (b) TXH and an RX handler enabled together give the same state in either order; (c) HOLDH and TXH are never
enabled together, nor HOLDH and an RX handler; (d), R287: TXH, HOLDH, the RX handlers and the host have no step while
the calibration loop runs. -/
def Obligations.HandlerOrder : Prop :=
  (∀ (s a b : State) (rx : Choice), rx = .rxcaph ∨ rx = .rxsmph → Moves .txh s a → Moves rx s b →
    ∃ t, Moves rx a t ∧ Moves .txh b t)
  ∧ ∀ s : State, s.Inv →
    ¬ (enabled .holdh s = true ∧ enabled .txh s = true)
    ∧ ¬ (enabled .holdh s = true ∧ (enabled .rxcaph s = true ∨ enabled .rxsmph s = true))
    ∧ (s.calState = .prime ∨ s.calState = .run →
      ∀ c ∈ [Choice.txh, .holdh, .rxcaph, .rxsmph, .host], enabled c s = false)

/-- R254: an inactive port with no calibration running is idle: no handler is enabled, and a tick changes only NOW and
PREV1. R120: in a quiescent state only the timer and the environment have a step. -/
def Obligations.IdleStates : Prop :=
  (∀ s : State, s.Inv → s.pstate = .inactive → s.calState ≠ .prime → s.calState ≠ .run →
    (∀ c ∈ [Choice.txh, .holdh, .rxcaph, .rxsmph, .calh], enabled c s = false)
    ∧ ∃ p, exec .tick s = .next { s with now := s.now + 1, prev1 := p })
  ∧ ∀ (s : State) (c : Choice), quiescent s = true → enabled c s = true → c = .tick ∨ ∃ line v, c = .env line v

/-! ## Laws of runs -/

/-- R119, R116: in every weakly fair run without a fault time advances, whatever else happens; and, in states of the
invariant, every handler that is enabled is taken, before the next tick and the next host step. -/
def Obligations.FairRunsAdvanceTime : Prop :=
  ∀ (r : Nat → State) (took : Nat → Option Choice), IsRun r took → WeaklyFair r took →
    (∀ n, (r n).fault = none) →
    (∀ n, ∃ m, n ≤ m ∧ took m = some .tick ∧ (r m).now = (r n).now ∧ (r (m + 1)).now = (r n).now + 1)
    ∧ ∀ n, (r n).Inv → ∀ c ∈ handlers, enabled c (r n) = true →
      ∃ m, n ≤ m ∧ took m = some c
        ∧ ∀ k, n ≤ k → k < m → took k ≠ some .tick ∧ took k ≠ some .host

/-- R119, and R155 with C14 of 90_conflicts.md: an endless run of the machine, from every state and with every schedule,
is a run of R110's relation, weakly fair, in which no tick passes while the host has a step. The fairness rests on the
model's default order, which follows every schedule (notes/assumptions/6.md, 21.md, 23.md). -/
def Obligations.MachineRunsAreFair : Prop :=
  ∀ r : Nat → State, (∀ n, step (r n) = .next (r (n + 1))) →
    IsRun r (fun n => chosen (r n)) ∧ WeaklyFair r (fun n => chosen (r n))
      ∧ ∀ n c, chosen (r n) = some c → hostFirst (r n) c

/-- R155, R177, R282, D50 and C14 of 90_conflicts.md: the host has no step in a state in which an event is masked by
GIE and pending, so an EINT never lets a handler run late. That holds at every launch and every step keeps it, and a
step that sets GIE leaves no handler enabled. -/
def Obligations.LateRunNeverHappens : Prop :=
  (∀ (c : Config) (p : List Word) (r f : Bool), (State.launch c p r f).NoLateRun)
  ∧ ∀ s t : State, s.Inv → s.NoLateRun → step s = .next t →
    t.NoLateRun ∧ (s.gie = false → t.gie = true → urgent t = false)

/-- R154, R153: a SEND that is the host's last command, on a listening port whose receive line is idle, with nothing
asked of the schedule: each bit of the frame is driven TPB ticks after the one before, the first TPB ticks after the
SEND, each level stays until the next bit's tick, and TX_IE clears exactly at the last bit. The order in which the
steps are taken is the model's default one (notes/assumptions/6.md). -/
def Obligations.TransmitWaveform : Prop :=
  ∀ (s : State) (b : Byte) (j m : Nat), s.Listening → s.sched = [] → s.rxdIn = true → s.hwait = .none →
    s.hprog[s.hpc]? = some (0x4000#16 ||| b.setWidth 16) → s.hprog.length = s.hpc + 1 →
    j ≤ 8 + s.cfg.stopBits → m < s.cfg.tpb →
    ∃ t, steps (1 + (j + 1) * (s.cfg.tpb + 1) + m) s = .next t
      ∧ t.now = s.now + (j + 1) * s.cfg.tpb + m ∧ t.tar = (s.tar + (j + 1) * s.cfg.tpb + m) % 2 ^ s.cfg.timerW
      ∧ t.txd = (if (frame s.cfg b).getLsbD j = true then .hi else .lo)
      ∧ (t.txIe = true ↔ j < 8 + s.cfg.stopBits)

/-- R222: a SHUTDOWN that is the host's last command, on a listening port whose receive line is idle: TXD is HI for
TPB ticks and released at the tick that ends them, and then the port is inactive and the command complete. The order in
which the steps are taken is the model's default one (notes/assumptions/6.md). -/
def Obligations.ShutdownHold : Prop :=
  ∀ s : State, s.Listening → s.sched = [] → s.rxdIn = true → s.hwait = .none →
    s.hprog[s.hpc]? = some 0x3000#16 → s.hprog.length = s.hpc + 1 →
    (∀ m, m < s.cfg.tpb → ∃ t, steps (1 + m) s = .next t ∧ t.now = s.now + m ∧ t.txd = .hi ∧ t.pstate = .holding)
    ∧ ∃ t, steps (1 + s.cfg.tpb + 2) s = .next t ∧ t.now = s.now + s.cfg.tpb ∧ t.txd = .rel ∧ t.pstate = .inactive
      ∧ t.tmode = .stop ∧ t.hwait = .none ∧ t.hpc = s.hpc + 1

/-- R176: the frame round trip: an active port with GIE 1 that waits for a start edge and has room in its ring, given an
ideal frame of b, stores exactly b, also while a frame is being sent. The environment sets the line before each tick,
and the TX and RX handlers run after it. For a host that is done the machine does the same when its schedule asks for
these steps. -/
def Obligations.ReceiveRoundTrip : Prop :=
  ∀ (s : State) (b : Byte), s.Inv → s.fault = none → s.pstate = .active → s.gie = true → s.cap1 = true →
    s.prev1 = true → urgent s = false → ringFull s = false →
    ∃ t, follow (frameSchedule s.cfg b (9 * s.cfg.tpb)) s = .next t ∧ Memory.read s.head t.buf = some b
      ∧ t.head = (s.head + 1) % s.cfg.ringCap ∧ t.tail = s.tail ∧ t.cap1 = true ∧ t.now = s.now + 9 * s.cfg.tpb
      ∧ (s.hpc = s.hprog.length →
        steps (5 * (9 * s.cfg.tpb)) { s with sched := frameSchedule s.cfg b (9 * s.cfg.tpb) }
          = .next { t with sched := [] })

/-- R177, R155 and C14 of 90_conflicts.md: a frame in progress with GIE 0, once a tick may pass, stops where it is: no
step but HOLDH, in any order, changes the ring storage, HEAD, the assembly state or GIE, and HOLDH discards the frame
without a push. -/
def Obligations.MaskedReceiveIsNeverPushed : Prop :=
  ∀ s : State, s.Inv → mayTake .tick s = true → s.gie = false → s.pstate ≠ .inactive → s.cap1 = false →
    ∀ t, ReachesBy (fun _ c => c ≠ .holdh) s t →
      t.gie = false ∧ t.cap1 = false ∧ t.rxidx = s.rxidx ∧ t.rxacc = s.rxacc ∧ t.head = s.head ∧ t.buf = s.buf
        ∧ t.pstate = s.pstate ∧ t.hpc = s.hpc ∧ t.fault = none
        ∧ ∀ u, Moves .holdh t u → u.pstate = .inactive ∧ u.cap1 = false ∧ u.rxidx = 0 ∧ u.rxacc = 0
          ∧ u.head = s.head ∧ u.buf = s.buf

/-- R256 (a), R155, R282: a SEND or SHUTDOWN with a frame in flight and GIE 0 is held for ever, whatever steps are taken
in whatever order, and the line is never driven LO by the stalled frame. And a frame in flight with GIE 0, once a tick
may pass, is never resumed, whether the host is held or done. -/
def Obligations.MaskedFrameHangsTheHost : Prop :=
  (∀ (s : State) (w : Word), s.fault = none → s.hwait = .none → s.pstate = .active → s.txIe = true → s.gie = false →
    s.hprog[s.hpc]? = some w → ((∃ b, decode w = .ok (.send b)) ∨ decode w = .ok .shutdown) →
    StuckBy (fun _ _ => True) s
      ∧ ∀ t, ReachesBy (fun _ _ => True) s t → t.txsr = s.txsr ∧ t.txIe = true ∧ (s.txd ≠ .lo → t.txd ≠ .lo))
  ∧ ∀ s : State, s.Inv → mayTake .tick s = true → s.txIe = true → s.gie = false →
    ∀ t, ReachesBy (fun _ _ => True) s t →
      t.gie = false ∧ t.txIe = true ∧ t.txsr = s.txsr ∧ t.hpc = s.hpc ∧ t.fault = none ∧ (s.txd ≠ .lo → t.txd ≠ .lo)

/-- R256 (b), R195: with the calibration loop running, no bound, and an environment that never gives a measurement of
TARGET_DELTA, the host waits for ever. -/
def Obligations.UnreachableTargetHangsTheHost : Prop :=
  ∀ s : State, s.Inv → s.fault = none → (s.calState = .prime ∨ s.calState = .run) → s.cfg.calMaxIter = none →
    StuckBy neverOnTarget s

/-- R256 (c), R195: with the calibration loop running, no capture pending, and a reference input that never makes another
rising edge, the host waits for ever, whatever CAL_MAX_ITER is: both when no tick sees a rising edge, and when no
environment step raises an input on which no rising edge is still to be seen. -/
def Obligations.DeadReferenceHangsTheHost : Prop :=
  ∀ s : State, s.Inv → s.fault = none → (s.calState = .prime ∨ s.calState = .run) → s.ifg1 = false →
    StuckBy noRisingRef s
      ∧ ((s.refIn = true → s.prev1 = true) → StuckBy neverRaisesRef s)
end

