-- ==== Sys2Proof/Laws/Memory.lean ====
section
/-! SUPPORT. The laws of the ring storage: a read after a write, and that a write keeps the canonical form. -/

namespace Sys2Proof.Machine

open Sys2Proof

@[simp] theorem Memory.read_write_same (i : Nat) (b : Byte) (m : List Host.Cell) :
    Memory.read i (Memory.write i b m) = some b := by
  induction m with
  | nil => simp [Memory.write, Memory.read]
  | cons x m ih =>
    obtain ⟨a, y⟩ := x
    unfold Memory.write
    split
    · simp [Memory.read]
    · split
      · simp [Memory.read]
      · rename_i h
        simp [Memory.read, Ne.symm h, ih]

theorem Memory.read_write_other {i j : Nat} (h : j ≠ i) (b : Byte) (m : List Host.Cell) :
    Memory.read j (Memory.write i b m) = Memory.read j m := by
  induction m with
  | nil => simp [Memory.write, Memory.read, Ne.symm h]
  | cons x m ih =>
    obtain ⟨a, y⟩ := x
    unfold Memory.write
    split
    · simp [Memory.read, Ne.symm h]
    · split
      · rename_i h'
        subst h'
        simp [Memory.read, Ne.symm h]
      · simp only [Memory.read, ih]

theorem Memory.mem_write {i : Nat} {b : Byte} {m : List Host.Cell} {x : Host.Cell} (h : x ∈ Memory.write i b m) :
    x = (i, b) ∨ x ∈ m := by
  induction m with
  | nil => simpa [Memory.write] using h
  | cons y m ih =>
    obtain ⟨a, z⟩ := y
    unfold Memory.write at h
    split at h
    · simpa using h
    · split at h
      · simp only [List.mem_cons] at h ⊢
        tauto
      · simp only [List.mem_cons] at h ⊢
        rcases h with h | h
        · exact .inr (.inl h)
        · rcases ih h with h | h
          · exact .inl h
          · exact .inr (.inr h)

/-- A write keeps the canonical form. -/
theorem Memory.write_wf (i : Nat) (b : Byte) {m : List Host.Cell} (h : Memory.wf m) :
    Memory.wf (Memory.write i b m) := by
  induction m with
  | nil => simp [Memory.write, Memory.wf]
  | cons y m ih =>
    obtain ⟨a, z⟩ := y
    simp only [Memory.wf, List.map_cons, List.pairwise_cons, List.mem_map, forall_exists_index, and_imp,
      forall_apply_eq_imp_iff₂] at h
    unfold Memory.write
    split
    · rename_i hi
      simp only [Memory.wf, List.map_cons, List.pairwise_cons, List.mem_cons, List.mem_map]
      refine ⟨?_, ?_, h.2⟩
      · rintro c (rfl | ⟨x, hx, rfl⟩)
        · exact hi
        · exact Nat.lt_trans hi (h.1 x hx)
      · rintro c ⟨x, hx, rfl⟩
        exact h.1 x hx
    · split
      · rename_i hi
        subst hi
        simp only [Memory.wf, List.map_cons, List.pairwise_cons, List.mem_map]
        refine ⟨?_, h.2⟩
        rintro c ⟨x, hx, rfl⟩
        exact h.1 x hx
      · rename_i h1 h2
        simp only [Memory.wf, List.map_cons, List.pairwise_cons, List.mem_map]
        refine ⟨?_, ih h.2⟩
        rintro c ⟨x, hx, rfl⟩
        rcases Memory.mem_write hx with rfl | hx
        · exact Nat.lt_of_le_of_ne (Nat.le_of_not_lt h1) (Ne.symm h2)
        · exact h.1 x hx

/-- The storage after reset is in canonical form. -/
theorem Memory.reset_wf : Memory.wf State.reset.buf := by decide

/-- A slot that holds a byte is listed. -/
theorem Memory.read_mem {i : Nat} {b : Byte} {m : List Host.Cell} (h : Memory.read i m = some b) : (i, b) ∈ m := by
  induction m with
  | nil => simp [Memory.read] at h
  | cons y m ih =>
    obtain ⟨a, z⟩ := y
    unfold Memory.read at h
    split at h
    · rename_i ha
      cases h
      subst ha
      simp
    · simp [ih h]

end Sys2Proof.Machine
end

