-- ==== Sys2Proof/Laws/State.lean ====
section
/-! SUPPORT. One lemma per field per named update of State: what the update leaves, and what it writes. -/

namespace Sys2Proof.Machine

open Sys2Proof

@[simp] theorem State.log_cfg (w : Word) (s : State) : (s.log w).cfg = s.cfg := rfl
@[simp] theorem State.log_tar (w : Word) (s : State) : (s.log w).tar = s.tar := rfl
@[simp] theorem State.log_tmode (w : Word) (s : State) : (s.log w).tmode = s.tmode := rfl
@[simp] theorem State.log_ccr0 (w : Word) (s : State) : (s.log w).ccr0 = s.ccr0 := rfl
@[simp] theorem State.log_outmod0 (w : Word) (s : State) : (s.log w).outmod0 = s.outmod0 := rfl
@[simp] theorem State.log_txIe (w : Word) (s : State) : (s.log w).txIe = s.txIe := rfl
@[simp] theorem State.log_ifg0 (w : Word) (s : State) : (s.log w).ifg0 = s.ifg0 := rfl
@[simp] theorem State.log_ccr1 (w : Word) (s : State) : (s.log w).ccr1 = s.ccr1 := rfl
@[simp] theorem State.log_cap1 (w : Word) (s : State) : (s.log w).cap1 = s.cap1 := rfl
@[simp] theorem State.log_ccis1 (w : Word) (s : State) : (s.log w).ccis1 = s.ccis1 := rfl
@[simp] theorem State.log_cm1 (w : Word) (s : State) : (s.log w).cm1 = s.cm1 := rfl
@[simp] theorem State.log_scci1 (w : Word) (s : State) : (s.log w).scci1 = s.scci1 := rfl
@[simp] theorem State.log_rxIe (w : Word) (s : State) : (s.log w).rxIe = s.rxIe := rfl
@[simp] theorem State.log_ifg1 (w : Word) (s : State) : (s.log w).ifg1 = s.ifg1 := rfl
@[simp] theorem State.log_prev1 (w : Word) (s : State) : (s.log w).prev1 = s.prev1 := rfl
@[simp] theorem State.log_txsr (w : Word) (s : State) : (s.log w).txsr = s.txsr := rfl
@[simp] theorem State.log_rxidx (w : Word) (s : State) : (s.log w).rxidx = s.rxidx := rfl
@[simp] theorem State.log_rxacc (w : Word) (s : State) : (s.log w).rxacc = s.rxacc := rfl
@[simp] theorem State.log_buf (w : Word) (s : State) : (s.log w).buf = s.buf := rfl
@[simp] theorem State.log_head (w : Word) (s : State) : (s.log w).head = s.head := rfl
@[simp] theorem State.log_tail (w : Word) (s : State) : (s.log w).tail = s.tail := rfl
@[simp] theorem State.log_calState (w : Word) (s : State) : (s.log w).calState = s.calState := rfl
@[simp] theorem State.log_lastCap (w : Word) (s : State) : (s.log w).lastCap = s.lastCap := rfl
@[simp] theorem State.log_calIter (w : Word) (s : State) : (s.log w).calIter = s.calIter := rfl
@[simp] theorem State.log_tuneLo (w : Word) (s : State) : (s.log w).tuneLo = s.tuneLo := rfl
@[simp] theorem State.log_tuneHi (w : Word) (s : State) : (s.log w).tuneHi = s.tuneHi := rfl
@[simp] theorem State.log_refdiv (w : Word) (s : State) : (s.log w).refdiv = s.refdiv := rfl
@[simp] theorem State.log_savedRefdiv (w : Word) (s : State) : (s.log w).savedRefdiv = s.savedRefdiv := rfl
@[simp] theorem State.log_pstate (w : Word) (s : State) : (s.log w).pstate = s.pstate := rfl
@[simp] theorem State.log_txd (w : Word) (s : State) : (s.log w).txd = s.txd := rfl
@[simp] theorem State.log_gie (w : Word) (s : State) : (s.log w).gie = s.gie := rfl
@[simp] theorem State.log_hprog (w : Word) (s : State) : (s.log w).hprog = s.hprog := rfl
@[simp] theorem State.log_hpc (w : Word) (s : State) : (s.log w).hpc = s.hpc := rfl
@[simp] theorem State.log_hwait (w : Word) (s : State) : (s.log w).hwait = s.hwait := rfl
@[simp] theorem State.log_hlog (w : Word) (s : State) : (s.log w).hlog = s.hlog ++ [w] := rfl
@[simp] theorem State.log_fault (w : Word) (s : State) : (s.log w).fault = s.fault := rfl
@[simp] theorem State.log_rxdIn (w : Word) (s : State) : (s.log w).rxdIn = s.rxdIn := rfl
@[simp] theorem State.log_refIn (w : Word) (s : State) : (s.log w).refIn = s.refIn := rfl
@[simp] theorem State.log_now (w : Word) (s : State) : (s.log w).now = s.now := rfl
@[simp] theorem State.log_sched (w : Word) (s : State) : (s.log w).sched = s.sched := rfl
@[simp] theorem State.log_freeCount (w : Word) (s : State) : (s.log w).freeCount = s.freeCount := rfl

@[simp] theorem State.advance_cfg (s : State) : (s.advance).cfg = s.cfg := rfl
@[simp] theorem State.advance_tar (s : State) : (s.advance).tar = s.tar := rfl
@[simp] theorem State.advance_tmode (s : State) : (s.advance).tmode = s.tmode := rfl
@[simp] theorem State.advance_ccr0 (s : State) : (s.advance).ccr0 = s.ccr0 := rfl
@[simp] theorem State.advance_outmod0 (s : State) : (s.advance).outmod0 = s.outmod0 := rfl
@[simp] theorem State.advance_txIe (s : State) : (s.advance).txIe = s.txIe := rfl
@[simp] theorem State.advance_ifg0 (s : State) : (s.advance).ifg0 = s.ifg0 := rfl
@[simp] theorem State.advance_ccr1 (s : State) : (s.advance).ccr1 = s.ccr1 := rfl
@[simp] theorem State.advance_cap1 (s : State) : (s.advance).cap1 = s.cap1 := rfl
@[simp] theorem State.advance_ccis1 (s : State) : (s.advance).ccis1 = s.ccis1 := rfl
@[simp] theorem State.advance_cm1 (s : State) : (s.advance).cm1 = s.cm1 := rfl
@[simp] theorem State.advance_scci1 (s : State) : (s.advance).scci1 = s.scci1 := rfl
@[simp] theorem State.advance_rxIe (s : State) : (s.advance).rxIe = s.rxIe := rfl
@[simp] theorem State.advance_ifg1 (s : State) : (s.advance).ifg1 = s.ifg1 := rfl
@[simp] theorem State.advance_prev1 (s : State) : (s.advance).prev1 = s.prev1 := rfl
@[simp] theorem State.advance_txsr (s : State) : (s.advance).txsr = s.txsr := rfl
@[simp] theorem State.advance_rxidx (s : State) : (s.advance).rxidx = s.rxidx := rfl
@[simp] theorem State.advance_rxacc (s : State) : (s.advance).rxacc = s.rxacc := rfl
@[simp] theorem State.advance_buf (s : State) : (s.advance).buf = s.buf := rfl
@[simp] theorem State.advance_head (s : State) : (s.advance).head = s.head := rfl
@[simp] theorem State.advance_tail (s : State) : (s.advance).tail = s.tail := rfl
@[simp] theorem State.advance_calState (s : State) : (s.advance).calState = s.calState := rfl
@[simp] theorem State.advance_lastCap (s : State) : (s.advance).lastCap = s.lastCap := rfl
@[simp] theorem State.advance_calIter (s : State) : (s.advance).calIter = s.calIter := rfl
@[simp] theorem State.advance_tuneLo (s : State) : (s.advance).tuneLo = s.tuneLo := rfl
@[simp] theorem State.advance_tuneHi (s : State) : (s.advance).tuneHi = s.tuneHi := rfl
@[simp] theorem State.advance_refdiv (s : State) : (s.advance).refdiv = s.refdiv := rfl
@[simp] theorem State.advance_savedRefdiv (s : State) : (s.advance).savedRefdiv = s.savedRefdiv := rfl
@[simp] theorem State.advance_pstate (s : State) : (s.advance).pstate = s.pstate := rfl
@[simp] theorem State.advance_txd (s : State) : (s.advance).txd = s.txd := rfl
@[simp] theorem State.advance_gie (s : State) : (s.advance).gie = s.gie := rfl
@[simp] theorem State.advance_hprog (s : State) : (s.advance).hprog = s.hprog := rfl
@[simp] theorem State.advance_hpc (s : State) : (s.advance).hpc = s.hpc + 1 := rfl
@[simp] theorem State.advance_hwait (s : State) : (s.advance).hwait = s.hwait := rfl
@[simp] theorem State.advance_hlog (s : State) : (s.advance).hlog = s.hlog := rfl
@[simp] theorem State.advance_fault (s : State) : (s.advance).fault = s.fault := rfl
@[simp] theorem State.advance_rxdIn (s : State) : (s.advance).rxdIn = s.rxdIn := rfl
@[simp] theorem State.advance_refIn (s : State) : (s.advance).refIn = s.refIn := rfl
@[simp] theorem State.advance_now (s : State) : (s.advance).now = s.now := rfl
@[simp] theorem State.advance_sched (s : State) : (s.advance).sched = s.sched := rfl
@[simp] theorem State.advance_freeCount (s : State) : (s.advance).freeCount = s.freeCount := rfl

@[simp] theorem State.withFault_cfg (r : FaultRecord) (s : State) : (s.withFault r).cfg = s.cfg := rfl
@[simp] theorem State.withFault_tar (r : FaultRecord) (s : State) : (s.withFault r).tar = s.tar := rfl
@[simp] theorem State.withFault_tmode (r : FaultRecord) (s : State) : (s.withFault r).tmode = s.tmode := rfl
@[simp] theorem State.withFault_ccr0 (r : FaultRecord) (s : State) : (s.withFault r).ccr0 = s.ccr0 := rfl
@[simp] theorem State.withFault_outmod0 (r : FaultRecord) (s : State) : (s.withFault r).outmod0 = s.outmod0 := rfl
@[simp] theorem State.withFault_txIe (r : FaultRecord) (s : State) : (s.withFault r).txIe = s.txIe := rfl
@[simp] theorem State.withFault_ifg0 (r : FaultRecord) (s : State) : (s.withFault r).ifg0 = s.ifg0 := rfl
@[simp] theorem State.withFault_ccr1 (r : FaultRecord) (s : State) : (s.withFault r).ccr1 = s.ccr1 := rfl
@[simp] theorem State.withFault_cap1 (r : FaultRecord) (s : State) : (s.withFault r).cap1 = s.cap1 := rfl
@[simp] theorem State.withFault_ccis1 (r : FaultRecord) (s : State) : (s.withFault r).ccis1 = s.ccis1 := rfl
@[simp] theorem State.withFault_cm1 (r : FaultRecord) (s : State) : (s.withFault r).cm1 = s.cm1 := rfl
@[simp] theorem State.withFault_scci1 (r : FaultRecord) (s : State) : (s.withFault r).scci1 = s.scci1 := rfl
@[simp] theorem State.withFault_rxIe (r : FaultRecord) (s : State) : (s.withFault r).rxIe = s.rxIe := rfl
@[simp] theorem State.withFault_ifg1 (r : FaultRecord) (s : State) : (s.withFault r).ifg1 = s.ifg1 := rfl
@[simp] theorem State.withFault_prev1 (r : FaultRecord) (s : State) : (s.withFault r).prev1 = s.prev1 := rfl
@[simp] theorem State.withFault_txsr (r : FaultRecord) (s : State) : (s.withFault r).txsr = s.txsr := rfl
@[simp] theorem State.withFault_rxidx (r : FaultRecord) (s : State) : (s.withFault r).rxidx = s.rxidx := rfl
@[simp] theorem State.withFault_rxacc (r : FaultRecord) (s : State) : (s.withFault r).rxacc = s.rxacc := rfl
@[simp] theorem State.withFault_buf (r : FaultRecord) (s : State) : (s.withFault r).buf = s.buf := rfl
@[simp] theorem State.withFault_head (r : FaultRecord) (s : State) : (s.withFault r).head = s.head := rfl
@[simp] theorem State.withFault_tail (r : FaultRecord) (s : State) : (s.withFault r).tail = s.tail := rfl
@[simp] theorem State.withFault_calState (r : FaultRecord) (s : State) : (s.withFault r).calState = s.calState := rfl
@[simp] theorem State.withFault_lastCap (r : FaultRecord) (s : State) : (s.withFault r).lastCap = s.lastCap := rfl
@[simp] theorem State.withFault_calIter (r : FaultRecord) (s : State) : (s.withFault r).calIter = s.calIter := rfl
@[simp] theorem State.withFault_tuneLo (r : FaultRecord) (s : State) : (s.withFault r).tuneLo = s.tuneLo := rfl
@[simp] theorem State.withFault_tuneHi (r : FaultRecord) (s : State) : (s.withFault r).tuneHi = s.tuneHi := rfl
@[simp] theorem State.withFault_refdiv (r : FaultRecord) (s : State) : (s.withFault r).refdiv = s.refdiv := rfl
@[simp] theorem State.withFault_savedRefdiv (r : FaultRecord) (s : State) : (s.withFault r).savedRefdiv = s.savedRefdiv := rfl
@[simp] theorem State.withFault_pstate (r : FaultRecord) (s : State) : (s.withFault r).pstate = s.pstate := rfl
@[simp] theorem State.withFault_txd (r : FaultRecord) (s : State) : (s.withFault r).txd = s.txd := rfl
@[simp] theorem State.withFault_gie (r : FaultRecord) (s : State) : (s.withFault r).gie = s.gie := rfl
@[simp] theorem State.withFault_hprog (r : FaultRecord) (s : State) : (s.withFault r).hprog = s.hprog := rfl
@[simp] theorem State.withFault_hpc (r : FaultRecord) (s : State) : (s.withFault r).hpc = s.hpc := rfl
@[simp] theorem State.withFault_hwait (r : FaultRecord) (s : State) : (s.withFault r).hwait = s.hwait := rfl
@[simp] theorem State.withFault_hlog (r : FaultRecord) (s : State) : (s.withFault r).hlog = s.hlog := rfl
@[simp] theorem State.withFault_fault (r : FaultRecord) (s : State) : (s.withFault r).fault = some r := rfl
@[simp] theorem State.withFault_rxdIn (r : FaultRecord) (s : State) : (s.withFault r).rxdIn = s.rxdIn := rfl
@[simp] theorem State.withFault_refIn (r : FaultRecord) (s : State) : (s.withFault r).refIn = s.refIn := rfl
@[simp] theorem State.withFault_now (r : FaultRecord) (s : State) : (s.withFault r).now = s.now := rfl
@[simp] theorem State.withFault_sched (r : FaultRecord) (s : State) : (s.withFault r).sched = s.sched := rfl
@[simp] theorem State.withFault_freeCount (r : FaultRecord) (s : State) : (s.withFault r).freeCount = s.freeCount := rfl

@[simp] theorem State.withSched_cfg (l : List Choice) (s : State) : (s.withSched l).cfg = s.cfg := rfl
@[simp] theorem State.withSched_tar (l : List Choice) (s : State) : (s.withSched l).tar = s.tar := rfl
@[simp] theorem State.withSched_tmode (l : List Choice) (s : State) : (s.withSched l).tmode = s.tmode := rfl
@[simp] theorem State.withSched_ccr0 (l : List Choice) (s : State) : (s.withSched l).ccr0 = s.ccr0 := rfl
@[simp] theorem State.withSched_outmod0 (l : List Choice) (s : State) : (s.withSched l).outmod0 = s.outmod0 := rfl
@[simp] theorem State.withSched_txIe (l : List Choice) (s : State) : (s.withSched l).txIe = s.txIe := rfl
@[simp] theorem State.withSched_ifg0 (l : List Choice) (s : State) : (s.withSched l).ifg0 = s.ifg0 := rfl
@[simp] theorem State.withSched_ccr1 (l : List Choice) (s : State) : (s.withSched l).ccr1 = s.ccr1 := rfl
@[simp] theorem State.withSched_cap1 (l : List Choice) (s : State) : (s.withSched l).cap1 = s.cap1 := rfl
@[simp] theorem State.withSched_ccis1 (l : List Choice) (s : State) : (s.withSched l).ccis1 = s.ccis1 := rfl
@[simp] theorem State.withSched_cm1 (l : List Choice) (s : State) : (s.withSched l).cm1 = s.cm1 := rfl
@[simp] theorem State.withSched_scci1 (l : List Choice) (s : State) : (s.withSched l).scci1 = s.scci1 := rfl
@[simp] theorem State.withSched_rxIe (l : List Choice) (s : State) : (s.withSched l).rxIe = s.rxIe := rfl
@[simp] theorem State.withSched_ifg1 (l : List Choice) (s : State) : (s.withSched l).ifg1 = s.ifg1 := rfl
@[simp] theorem State.withSched_prev1 (l : List Choice) (s : State) : (s.withSched l).prev1 = s.prev1 := rfl
@[simp] theorem State.withSched_txsr (l : List Choice) (s : State) : (s.withSched l).txsr = s.txsr := rfl
@[simp] theorem State.withSched_rxidx (l : List Choice) (s : State) : (s.withSched l).rxidx = s.rxidx := rfl
@[simp] theorem State.withSched_rxacc (l : List Choice) (s : State) : (s.withSched l).rxacc = s.rxacc := rfl
@[simp] theorem State.withSched_buf (l : List Choice) (s : State) : (s.withSched l).buf = s.buf := rfl
@[simp] theorem State.withSched_head (l : List Choice) (s : State) : (s.withSched l).head = s.head := rfl
@[simp] theorem State.withSched_tail (l : List Choice) (s : State) : (s.withSched l).tail = s.tail := rfl
@[simp] theorem State.withSched_calState (l : List Choice) (s : State) : (s.withSched l).calState = s.calState := rfl
@[simp] theorem State.withSched_lastCap (l : List Choice) (s : State) : (s.withSched l).lastCap = s.lastCap := rfl
@[simp] theorem State.withSched_calIter (l : List Choice) (s : State) : (s.withSched l).calIter = s.calIter := rfl
@[simp] theorem State.withSched_tuneLo (l : List Choice) (s : State) : (s.withSched l).tuneLo = s.tuneLo := rfl
@[simp] theorem State.withSched_tuneHi (l : List Choice) (s : State) : (s.withSched l).tuneHi = s.tuneHi := rfl
@[simp] theorem State.withSched_refdiv (l : List Choice) (s : State) : (s.withSched l).refdiv = s.refdiv := rfl
@[simp] theorem State.withSched_savedRefdiv (l : List Choice) (s : State) : (s.withSched l).savedRefdiv = s.savedRefdiv := rfl
@[simp] theorem State.withSched_pstate (l : List Choice) (s : State) : (s.withSched l).pstate = s.pstate := rfl
@[simp] theorem State.withSched_txd (l : List Choice) (s : State) : (s.withSched l).txd = s.txd := rfl
@[simp] theorem State.withSched_gie (l : List Choice) (s : State) : (s.withSched l).gie = s.gie := rfl
@[simp] theorem State.withSched_hprog (l : List Choice) (s : State) : (s.withSched l).hprog = s.hprog := rfl
@[simp] theorem State.withSched_hpc (l : List Choice) (s : State) : (s.withSched l).hpc = s.hpc := rfl
@[simp] theorem State.withSched_hwait (l : List Choice) (s : State) : (s.withSched l).hwait = s.hwait := rfl
@[simp] theorem State.withSched_hlog (l : List Choice) (s : State) : (s.withSched l).hlog = s.hlog := rfl
@[simp] theorem State.withSched_fault (l : List Choice) (s : State) : (s.withSched l).fault = s.fault := rfl
@[simp] theorem State.withSched_rxdIn (l : List Choice) (s : State) : (s.withSched l).rxdIn = s.rxdIn := rfl
@[simp] theorem State.withSched_refIn (l : List Choice) (s : State) : (s.withSched l).refIn = s.refIn := rfl
@[simp] theorem State.withSched_now (l : List Choice) (s : State) : (s.withSched l).now = s.now := rfl
@[simp] theorem State.withSched_sched (l : List Choice) (s : State) : (s.withSched l).sched = l := rfl
@[simp] theorem State.withSched_freeCount (l : List Choice) (s : State) : (s.withSched l).freeCount = s.freeCount := rfl

end Sys2Proof.Machine
end

