-- ==== Sys2Proof/Laws/Ops.lean ====
section
/-! SUPPORT. What each shared operation can do: modular arithmetic, the ring operations, raising a fault, urgency, and
what a legal configuration gives. -/

namespace Sys2Proof.Machine

open Sys2Proof

/-- R12, spelled out. -/
theorem Config.legal_iff (c : Config) : c.legal = true ↔
    2 ≤ c.tpb ∧ (c.tphb = c.tpb / 2 ∨ (1 ≤ c.tphb ∧ c.tphb < c.tpb)) ∧ c.tpb + c.tphb ≤ 2 ^ c.timerW - 1
      ∧ (1 ≤ c.targetDelta ∧ c.targetDelta ≤ 2 ^ c.timerW - 1) ∧ c.ringCapOk = true
      ∧ (c.stopBits = 1 ∨ c.stopBits = 2) ∧ c.calMaxIterOk = true := by
  simp [Config.legal, Config.tphbOk, and_assoc]

theorem Config.ringCap_of_legal {c : Config} (h : c.legal = true) : ∃ k, 1 ≤ k ∧ k ≤ 15 ∧ c.ringCap = 2 ^ k := by
  have h' := ((Config.legal_iff c).1 h).2.2.2.2.1
  simp only [Config.ringCapOk, List.any_eq_true, List.mem_range, Bool.and_eq_true, decide_eq_true_eq,
    beq_iff_eq] at h'
  obtain ⟨k, hk, h1, h2⟩ := h'
  exact ⟨k, h1, by omega, h2⟩

theorem Config.two_le_ringCap {c : Config} (h : c.legal = true) : 2 ≤ c.ringCap := by
  obtain ⟨k, h1, -, hk⟩ := Config.ringCap_of_legal h
  rw [hk]
  calc 2 = 2 ^ 1 := rfl
    _ ≤ 2 ^ k := Nat.pow_le_pow_right (by decide) h1

theorem Config.timer_of_legal {c : Config} (h : c.legal = true) :
    1 ≤ c.tphb ∧ c.tphb < c.tpb ∧ 2 ≤ c.tpb ∧ c.tpb + c.tphb < 2 ^ c.timerW := by
  obtain ⟨h1, h2, h3, -⟩ := (Config.legal_iff c).1 h
  have h2' : 1 ≤ c.tphb ∧ c.tphb < c.tpb := by
    rcases h2 with h2 | h2
    · omega
    · exact h2
  have := Nat.one_le_two_pow (n := c.timerW)
  omega

theorem addW_lt (c : Config) (a b : Nat) : addW c a b < 2 ^ c.timerW := Nat.mod_lt _ (Nat.two_pow_pos _)

theorem addC_lt {c : Config} (h : 0 < c.ringCap) (a b : Nat) : addC c a b < c.ringCap := Nat.mod_lt _ h

/-- R15 for values in range. -/
theorem subW_eq {c : Config} {a b : Nat} (ha : a < 2 ^ c.timerW) (hb : b < 2 ^ c.timerW) :
    subW c a b = if b ≤ a then a - b else a + 2 ^ c.timerW - b := by
  unfold subW
  generalize 2 ^ c.timerW = M at *
  split
  · rw [Int.emod_eq_of_lt (by omega) (by omega)]
    omega
  · rw [← Int.add_emod_right, Int.emod_eq_of_lt (by omega) (by omega)]
    omega

/-- R15 for indices in range. -/
theorem subC_eq {c : Config} {a b : Nat} (ha : a < c.ringCap) (hb : b < c.ringCap) :
    subC c a b = if b ≤ a then a - b else a + c.ringCap - b := by
  unfold subC
  generalize c.ringCap = M at *
  split
  · rw [Int.emod_eq_of_lt (by omega) (by omega)]
    omega
  · rw [← Int.add_emod_right, Int.emod_eq_of_lt (by omega) (by omega)]
    omega

/-- R15 for a sum of values below the modulus. -/
theorem addC_eq {c : Config} {a b : Nat} (ha : a < c.ringCap) (hb : b < c.ringCap) :
    addC c a b = if a + b < c.ringCap then a + b else a + b - c.ringCap := by
  unfold addC
  split
  · exact Nat.mod_eq_of_lt ‹_›
  · rw [Nat.mod_eq_sub_mod (by omega)]
    exact Nat.mod_eq_of_lt (by omega)

/-- R15 for a sum of values below the modulus. -/
theorem addW_eq {c : Config} {a b : Nat} (ha : a < 2 ^ c.timerW) (hb : b < 2 ^ c.timerW) :
    addW c a b = if a + b < 2 ^ c.timerW then a + b else a + b - 2 ^ c.timerW := by
  unfold addW
  split
  · exact Nat.mod_eq_of_lt ‹_›
  · rw [Nat.mod_eq_sub_mod (by omega)]
    exact Nat.mod_eq_of_lt (by omega)

theorem memRead_cases (i : Nat) (s : State) (k : Byte → Out) :
    (∃ b, i < s.cfg.ringCap ∧ Memory.read i s.buf = some b ∧ memRead i s k = k b)
      ∨ (i < s.cfg.ringCap ∧ Memory.read i s.buf = none ∧ memRead i s k = .fault (.slotNoValue i))
      ∨ (s.cfg.ringCap ≤ i ∧ memRead i s k = .fault (.slotOutOfRange i)) := by
  unfold memRead
  by_cases h : i < s.cfg.ringCap
  · cases hb : Memory.read i s.buf with
    | none => exact .inr (.inl ⟨h, rfl, by simp [h]⟩)
    | some b => exact .inl ⟨b, h, rfl, by simp [h]⟩
  · exact .inr (.inr ⟨Nat.le_of_not_lt h, by simp [h]⟩)

theorem memWrite_cases (i : Nat) (b : Byte) (s : State) (k : State → Out) :
    (i < s.cfg.ringCap ∧ memWrite i b s k = k { s with buf := Memory.write i b s.buf })
      ∨ (s.cfg.ringCap ≤ i ∧ memWrite i b s k = .fault (.slotOutOfRange i)) := by
  unfold memWrite
  by_cases h : i < s.cfg.ringCap
  · exact .inl ⟨h, by simp [h]⟩
  · exact .inr ⟨Nat.le_of_not_lt h, by simp [h]⟩

/-- R130: everything push can do. -/
theorem pushByte_cases (b : Byte) (s : State) (k : State → Out) :
    (ringFull s = true ∧ pushByte b s k = k s)
      ∨ (ringFull s = false ∧ s.head < s.cfg.ringCap ∧ pushByte b s k
          = k { s with buf := Memory.write s.head b s.buf, head := addC s.cfg s.head 1 })
      ∨ (ringFull s = false ∧ s.cfg.ringCap ≤ s.head ∧ pushByte b s k = .fault (.slotOutOfRange s.head)) := by
  unfold pushByte
  cases hf : ringFull s with
  | true => exact .inl ⟨rfl, by simp⟩
  | false =>
    rcases memWrite_cases s.head b s (fun s' => k { s' with head := addC s.cfg s.head 1 }) with ⟨h, e⟩ | ⟨h, e⟩
    · exact .inr (.inl ⟨rfl, h, by simpa using e⟩)
    · exact .inr (.inr ⟨rfl, h, by simpa using e⟩)

/-- R131, R132: everything the pop can do. -/
theorem takeByte_cases (s : State) (k : Byte → State → Out) :
    (∃ b, s.tail < s.cfg.ringCap ∧ Memory.read s.tail s.buf = some b
        ∧ takeByte s k = k b { s with tail := addC s.cfg s.tail 1 })
      ∨ (s.tail < s.cfg.ringCap ∧ Memory.read s.tail s.buf = none ∧ takeByte s k = .fault (.slotNoValue s.tail))
      ∨ (s.cfg.ringCap ≤ s.tail ∧ takeByte s k = .fault (.slotOutOfRange s.tail)) :=
  memRead_cases s.tail s _

/-- R241: everything raising a fault can do. -/
theorem raiseFault_cases (code : FaultCode) (s : State) :
    (∃ w, s.hprog[s.hpc]? = some w ∧ raiseFault code s = .next (s.withFault ⟨code, w⟩))
      ∨ (s.hprog[s.hpc]? = none ∧ raiseFault code s = .fault .noCommandWord) := by
  unfold raiseFault
  cases h : s.hprog[s.hpc]? with
  | none => exact .inr ⟨rfl, rfl⟩
  | some w => exact .inl ⟨w, rfl, rfl⟩

theorem raiseFault_next {code : FaultCode} {s t : State} (h : raiseFault code s = .next t) :
    ∃ w, s.hprog[s.hpc]? = some w ∧ t = s.withFault ⟨code, w⟩ := by
  rcases raiseFault_cases code s with ⟨w, hw, e⟩ | ⟨-, e⟩
  · rw [e] at h
    cases h
    exact ⟨w, hw, rfl⟩
  · rw [e] at h
    cases h

@[simp] theorem held_eq (s : State) : held s = .next s := rfl

/-- R116: not urgent means no handler is enabled. -/
theorem urgent_eq_false (s : State) : urgent s = false ↔
    txhEnabled s = false ∧ holdhEnabled s = false ∧ rxcaphEnabled s = false ∧ rxsmphEnabled s = false
      ∧ calhEnabled s = false := by
  simp [urgent, and_assoc]

/-- R151: no frame is 0, so TXH never starts with TXSR 0. -/
theorem frame_ne_zero (c : Config) (b : Byte) : frame c b ≠ 0 := by
  intro h
  have := congrArg (fun v : BitVec 16 => v.getLsbD 9) h
  simp only [frame, zext16, BitVec.getLsbD_shiftLeft, BitVec.getLsbD_or, BitVec.getLsbD_setWidth] at this
  split at this <;> simp at this

end Sys2Proof.Machine
end

