-- ==== Sys2Proof/Laws/Exec.lean ====
section
/-! SUPPORT. Inversion of each meaning: if it answers a next state, then one of these cases holds. -/

namespace Sys2Proof.Machine

open Sys2Proof

/-- A meaning with an enabling condition: its body when enabled, held otherwise. -/
theorem guarded_next {g : Bool} {s t u : State} (h : (if g = true then (.next u : Out) else held s) = .next t) :
    (g = true ∧ t = u) ∨ (g = false ∧ t = s) := by
  cases g <;> simp_all

/-- R112: channel 0 within a counting tick writes TXD and IFG0. -/
theorem tickChannel0_eq (s : State) :
    tickChannel0 s = { s with
      txd := if s.tar = s.ccr0 ∧ s.outmod0 = .set ∧ s.txd ≠ .rel then .hi else s.txd
      ifg0 := decide (s.tar = s.ccr0) || s.ifg0 } := by
  unfold tickChannel0
  by_cases h : s.tar = s.ccr0
  · simp [h, ch0Compare]
  · simp [h]

/-- R113, R114: channel 1 within a counting tick writes CCR1, SCCI1 and IFG1. -/
theorem tickChannel1_eq (in1 : Bool) (s : State) :
    tickChannel1 in1 s = { s with
      ccr1 := if s.cap1 && edgeSeen s in1 then s.tar else s.ccr1
      scci1 := if !s.cap1 && decide (s.tar = s.ccr1) then in1 else s.scci1
      ifg1 := (s.cap1 && edgeSeen s in1) || (!s.cap1 && decide (s.tar = s.ccr1)) || s.ifg1 } := by
  unfold tickChannel1
  cases hc : s.cap1 with
  | true =>
    cases he : edgeSeen s in1
    · simp
      rw [← hc]
    · simp [ch1Capture, hc]
  | false =>
    by_cases h : s.tar = s.ccr1
    · simp [h, ch1Compare, hc]
    · simp [h]
      rw [← hc]

/-- R111 to R114: what a tick writes. -/
theorem tickBody_frame (s : State) :
    ∃ tar txd ifg0 ccr1 scci1 ifg1,
      tickBody s = { s with
        now := s.now + 1, prev1 := chan1Input s, tar := tar, txd := txd, ifg0 := ifg0, ccr1 := ccr1, scci1 := scci1,
        ifg1 := ifg1 }
      ∧ (tar = s.tar ∨ tar = addW s.cfg s.tar 1)
      ∧ (txd = s.txd ∨ (txd = .hi ∧ s.txd ≠ .rel))
      ∧ (ccr1 = s.ccr1 ∨ ccr1 = tar) := by
  unfold tickBody
  cases hm : s.tmode with
  | stop => exact ⟨_, _, _, _, _, _, rfl, .inl rfl, .inl rfl, .inl rfl⟩
  | cont =>
    simp only [countTick, tickChannel0_eq, tickChannel1_eq]
    refine ⟨_, _, _, _, _, _, rfl, .inr rfl, ?_, ?_⟩
    · split
      · rename_i h
        exact .inr ⟨rfl, h.2.2⟩
      · exact .inl rfl
    · exact (ite_eq_or_eq _ _ _).symm

theorem execTick_next {s t : State} (h : execTick s = .next t) :
    (urgent s = true ∧ t = s) ∨ (urgent s = false ∧ t = tickBody s) := by
  unfold execTick at h
  cases hu : urgent s <;> simp_all

theorem execEnv_next {line : InputLine} {v : Bool} {s t : State} (h : execEnv line v s = .next t) :
    (line = .rxd ∧ t = { s with rxdIn := v }) ∨ (line = .ref ∧ t = { s with refIn := v }) := by
  cases line <;> simp_all [execEnv]

theorem execPush_next {b : Byte} {s t : State} (h : execPush b s = .next t) :
    (ringFull s = true ∧ t = s)
      ∨ (ringFull s = false ∧ s.head < s.cfg.ringCap
        ∧ t = { s with buf := Memory.write s.head b s.buf, head := addC s.cfg s.head 1 }) := by
  unfold execPush at h
  rcases pushByte_cases b s (fun s' => .next s') with ⟨hf, e⟩ | ⟨hf, hr, e⟩ | ⟨hf, hr, e⟩ <;> rw [e] at h
  · cases h
    exact .inl ⟨hf, rfl⟩
  · cases h
    exact .inr ⟨hf, hr, rfl⟩
  · cases h

theorem execRead_next {s t : State} (h : execRead s = .next t) :
    (ringEmpty s = true ∧ t = (s.log 0x0000#16).advance)
      ∨ (ringEmpty s = false ∧ ∃ b, s.tail < s.cfg.ringCap ∧ Memory.read s.tail s.buf = some b
        ∧ t = (({ s with tail := addC s.cfg s.tail 1 } : State).log (presentWord b)).advance) := by
  unfold execRead at h
  split at h
  · rename_i he
    cases h
    exact .inl ⟨he, rfl⟩
  · rename_i he
    rcases takeByte_cases s (fun b s' => .next ((s'.log (presentWord b)).advance)) with
      ⟨b, hr, hb, e⟩ | ⟨-, -, e⟩ | ⟨-, e⟩ <;> rw [e] at h
    · cases h
      exact .inr ⟨by simpa using he, b, hr, hb, rfl⟩
    · cases h
    · cases h

theorem execReadUnchecked_next {s t : State} (h : execReadUnchecked s = .next t) :
    (ringEmpty s = true ∧ ∃ w, s.hprog[s.hpc]? = some w ∧ t = s.withFault ⟨.uncheckedReadEmpty, w⟩)
      ∨ (ringEmpty s = false ∧ ∃ b, s.tail < s.cfg.ringCap ∧ Memory.read s.tail s.buf = some b
        ∧ t = (({ s with tail := addC s.cfg s.tail 1 } : State).log (zext16 b)).advance) := by
  unfold execReadUnchecked at h
  split at h
  · rename_i he
    exact .inl ⟨he, raiseFault_next h⟩
  · rename_i he
    rcases takeByte_cases s (fun b s' => .next ((s'.log (zext16 b)).advance)) with
      ⟨b, hr, hb, e⟩ | ⟨-, -, e⟩ | ⟨-, e⟩ <;> rw [e] at h
    · cases h
      exact .inr ⟨by simpa using he, b, hr, hb, rfl⟩
    · cases h
    · cases h

theorem execSend_next {b : Byte} {s t : State} (h : execSend b s = .next t) :
    (s.pstate ≠ .active ∧ ∃ w, s.hprog[s.hpc]? = some w ∧ t = s.withFault ⟨.sendInactive, w⟩)
      ∨ (s.pstate = .active ∧ s.txIe = true ∧ t = s)
      ∨ (s.pstate = .active ∧ s.txIe = false ∧ t = (startFrame b s).advance) := by
  unfold execSend at h
  split at h
  · rename_i hp
    exact .inl ⟨hp, raiseFault_next h⟩
  · rename_i hp
    have hp' : s.pstate = .active := Classical.not_not.1 hp
    cases ht : s.txIe <;> simp_all

theorem execTxh_next {s t : State} (h : execTxh s = .next t) :
    (txhEnabled s = true ∧ t = txShift s) ∨ (txhEnabled s = false ∧ t = s) := guarded_next h

theorem execRxcaph_next {s t : State} (h : execRxcaph s = .next t) :
    (rxcaphEnabled s = true ∧ t = rxCapture s) ∨ (rxcaphEnabled s = false ∧ t = s) := guarded_next h

theorem execRxsmph_next {s t : State} (h : execRxsmph s = .next t) :
    (rxsmphEnabled s = false ∧ t = s)
      ∨ (rxsmphEnabled s = true ∧ s.rxidx ≠ 7 ∧ t = { rxReschedule s with
          rxacc := withSample s.rxacc s.rxidx s.scci1, rxidx := s.rxidx + 1 })
      ∨ (rxsmphEnabled s = true ∧ s.rxidx = 7 ∧ ringFull s = true ∧ t = backToCapture (rxReschedule s))
      ∨ (rxsmphEnabled s = true ∧ s.rxidx = 7 ∧ ringFull s = false ∧ s.head < s.cfg.ringCap
        ∧ t = backToCapture { rxReschedule s with
          buf := Memory.write s.head (withSample s.rxacc s.rxidx s.scci1) s.buf, head := addC s.cfg s.head 1 }) := by
  unfold execRxsmph at h
  cases he : rxsmphEnabled s with
  | false =>
    simp only [he] at h
    exact .inl ⟨rfl, by cases h; rfl⟩
  | true =>
    simp only [he, ↓reduceIte, rxSample] at h
    split at h
    · rename_i hi
      rcases pushByte_cases (withSample s.rxacc s.rxidx s.scci1) (rxReschedule s)
        (fun s' => .next (backToCapture s')) with ⟨hf, e⟩ | ⟨hf, hr, e⟩ | ⟨hf, hr, e⟩ <;> rw [e] at h
      · cases h
        exact .inr (.inr (.inl ⟨rfl, hi, hf, rfl⟩))
      · cases h
        exact .inr (.inr (.inr ⟨rfl, hi, hf, hr, rfl⟩))
      · cases h
    · rename_i hi
      cases h
      exact .inr (.inl ⟨rfl, hi, rfl⟩)

theorem execCalibrate_next {s t : State} (h : execCalibrate s = .next t) :
    (s.pstate ≠ .inactive ∧ ∃ w, s.hprog[s.hpc]? = some w ∧ t = s.withFault ⟨.calibrateActive, w⟩)
      ∨ (s.pstate = .inactive ∧ s.cfg.calEnabled = true ∧ t = startCalibration s)
      ∨ (s.pstate = .inactive ∧ s.cfg.calEnabled = false ∧ t = ((loadPreset s).log 0x0003#16).advance) := by
  unfold execCalibrate at h
  split at h
  · rename_i hp
    exact .inl ⟨hp, raiseFault_next h⟩
  · rename_i hp
    have hp' : s.pstate = .inactive := Classical.not_not.1 hp
    cases hc : s.cfg.calEnabled <;> simp_all

theorem execCalh_next {s t : State} (h : execCalh s = .next t) :
    (calhEnabled s = true ∧ t = calCapture s) ∨ (calhEnabled s = false ∧ t = s) := guarded_next h

/-- R191: everything a calibration capture can do. -/
theorem calCapture_cases (s : State) :
    (s.calState = .prime ∧ calCapture s = { s with ifg1 := false, lastCap := some s.ccr1, calState := .run })
      ∨ (s.calState ≠ .prime ∧ ∃ hi lo n,
          calCapture s = { s with
            ifg1 := false, lastCap := some s.ccr1, freeCount := afterPrevCapture s, tuneHi := hi, tuneLo := lo,
            calIter := n })
      ∨ (s.calState ≠ .prime ∧ ∃ hi lo n st, (st = .done ∨ st = .fail) ∧
          calCapture s = calFinish st { s with
            ifg1 := false, lastCap := some s.ccr1, freeCount := afterPrevCapture s, tuneHi := hi, tuneLo := lo,
            calIter := n }) := by
  unfold calCapture
  split
  · rename_i hp
    exact .inl ⟨hp, rfl⟩
  · rename_i hp
    right
    unfold measure adjust
    dsimp only
    split
    · exact .inr ⟨hp, _, _, _, _, .inl rfl, rfl⟩
    · split
      · exact .inr ⟨hp, _, _, _, _, .inr rfl, rfl⟩
      · exact .inl ⟨hp, _, _, _, rfl⟩

theorem execCalibrateComplete_next {s t : State} (h : execCalibrateComplete s = .next t) :
    (calibrateCompleteEnabled s = true ∧ t = ({ s.log (calResult s) with hwait := .none } : State).advance)
      ∨ (calibrateCompleteEnabled s = false ∧ t = s) := guarded_next h

theorem execInit_next {s t : State} (h : execInit s = .next t) :
    (s.pstate ≠ .inactive ∧ ∃ w, s.hprog[s.hpc]? = some w ∧ t = s.withFault ⟨.initActive, w⟩)
      ∨ (s.pstate = .inactive ∧ s.gie = true ∧ ∃ w, s.hprog[s.hpc]? = some w ∧ t = s.withFault ⟨.initWithGie, w⟩)
      ∨ (s.pstate = .inactive ∧ s.gie = false ∧ t = (activate s).advance) := by
  unfold execInit at h
  split at h
  · rename_i hp
    exact .inl ⟨hp, raiseFault_next h⟩
  · rename_i hp
    have hp' : s.pstate = .inactive := Classical.not_not.1 hp
    split at h
    · rename_i hg
      exact .inr (.inl ⟨hp', hg, raiseFault_next h⟩)
    · rename_i hg
      cases h
      exact .inr (.inr ⟨hp', by simpa using hg, rfl⟩)

theorem execShutdown_next {s t : State} (h : execShutdown s = .next t) :
    (s.pstate = .inactive ∧ ∃ w, s.hprog[s.hpc]? = some w ∧ t = s.withFault ⟨.shutdownInactive, w⟩)
      ∨ (s.pstate ≠ .inactive ∧ s.txIe = true ∧ t = s)
      ∨ (s.pstate ≠ .inactive ∧ s.txIe = false ∧ t = startHold s) := by
  unfold execShutdown at h
  split at h
  · rename_i hp
    exact .inl ⟨hp, raiseFault_next h⟩
  · rename_i hp
    cases ht : s.txIe <;> simp_all

theorem execHoldh_next {s t : State} (h : execHoldh s = .next t) :
    (holdhEnabled s = true ∧ t = release s) ∨ (holdhEnabled s = false ∧ t = s) := guarded_next h

theorem execShutdownComplete_next {s t : State} (h : execShutdownComplete s = .next t) :
    (shutdownCompleteEnabled s = true ∧ t = ({ s with hwait := .none } : State).advance)
      ∨ (shutdownCompleteEnabled s = false ∧ t = s) := guarded_next h

end Sys2Proof.Machine
end

