-- ==== Sys2Proof/Laws/PerInstr.lean ====
section
/-! SUPPORT. The family HasWord: an instruction has a command word exactly when it is well formed (R91, R99). -/

namespace Sys2Proof.Laws.HasWord

open Sys2Proof

def Statement (i : Instr) : Prop := (encode i).isSome = i.WellFormed

theorem calibrate : Statement (.calibrate) := rfl

theorem init : Statement (.init) := rfl

theorem shutdown : Statement (.shutdown) := rfl

theorem send (b : Byte) : Statement (.send b) := rfl

theorem read : Statement (.read) := rfl

theorem readUnchecked : Statement (.readUnchecked) := rfl

theorem available : Statement (.available) := rfl

theorem isEmpty : Statement (.isEmpty) := rfl

theorem eint : Statement (.eint) := rfl

theorem dint : Statement (.dint) := rfl

theorem status : Statement (.status) := rfl

theorem readTuning : Statement (.readTuning) := rfl

theorem tick : Statement (.tick) := rfl

theorem env (line : InputLine) (v : Bool) : Statement (.env line v) := rfl

theorem push (b : Byte) : Statement (.push b) := rfl

theorem txh : Statement (.txh) := rfl

theorem rxcaph : Statement (.rxcaph) := rfl

theorem rxsmph : Statement (.rxsmph) := rfl

theorem calh : Statement (.calh) := rfl

theorem shutdownStart : Statement (.shutdownStart) := rfl

theorem holdh : Statement (.holdh) := rfl

theorem shutdownComplete : Statement (.shutdownComplete) := rfl

theorem calibrateComplete : Statement (.calibrateComplete) := rfl

end Sys2Proof.Laws.HasWord
end

