-- ==== Sys2Proof/Laws/Step.lean ====
section
/-! SUPPORT. What a step can do: the choice taken by default is enabled, the host's step, and the inversion of `step`. -/

namespace Sys2Proof.Machine

open Sys2Proof

/-- Without an urgent handler, the default choice is the host's step if it is enabled, else a tick. -/
theorem defaultChoice_of_not_urgent {s : State} (h : urgent s = false) :
    defaultChoice s = if hostEnabled s then .host else .tick := by
  obtain ⟨h1, h2, h3, h4, h5⟩ := (urgent_eq_false s).1 h
  simp [defaultChoice, h1, h2, h3, h4, h5]

/-- The step taken when the schedule asks for none is enabled. -/
theorem defaultChoice_enabled {s : State} (h : s.fault = none) : enabled (defaultChoice s) s = true := by
  by_cases hu : urgent s = true
  · unfold defaultChoice
    split
    · simp_all [enabled]
    · split
      · simp_all [enabled]
      · split
        · simp_all [enabled]
        · split
          · simp_all [enabled]
          · split
            · simp_all [enabled]
            · simp_all [urgent]
  · have hu' : urgent s = false := by simpa using hu
    rw [defaultChoice_of_not_urgent hu']
    split
    · simp_all [enabled]
    · simp [enabled, h, hu']

/-- A step a run may take: enabled, and no tick while the host has a step (C14). -/
theorem mayTake_iff (c : Choice) (s : State) :
    mayTake c s = true ↔ enabled c s = true ∧ (c = .tick → hostEnabled s = false) := by
  cases c <;> simp [mayTake]

/-- The step taken when the schedule asks for none is one a run may take. -/
theorem defaultChoice_mayTake {s : State} (h : s.fault = none) : mayTake (defaultChoice s) s = true := by
  refine (mayTake_iff _ _).2 ⟨defaultChoice_enabled h, fun hc => ?_⟩
  cases hh : hostEnabled s with
  | false => rfl
  | true =>
    have hu : urgent s = false := by
      cases hu : urgent s <;> simp_all [hostEnabled]
    simp [defaultChoice_of_not_urgent hu, hh] at hc

/-- R110, R118: everything that has to hold for the host to have a step. -/
theorem hostEnabled_cases {s : State} (h : hostEnabled s = true) :
    urgent s = false ∧ ∃ w, s.hprog[s.hpc]? = some w
      ∧ ((s.hwait = .none ∧ commandReady w s = true)
        ∨ (s.hwait = .shutdown ∧ shutdownCompleteEnabled s = true)
        ∨ (s.hwait = .cal ∧ calibrateCompleteEnabled s = true)) := by
  unfold hostEnabled at h
  simp only [Bool.and_eq_true, Bool.not_eq_true', hostWord] at h
  obtain ⟨hu, h⟩ := h
  refine ⟨hu, ?_⟩
  cases hw : s.hprog[s.hpc]? with
  | none => simp [hw] at h
  | some w =>
    refine ⟨w, rfl, ?_⟩
    cases hh : s.hwait <;> simp_all

/-- R220: everything a host step can do. -/
theorem hostStep_cases {s t : State} (hf : hostEnabled s = true) (h : hostStep s = .next t) :
    urgent s = false ∧ ∃ w, s.hprog[s.hpc]? = some w
      ∧ ((s.hwait = .none ∧ commandReady w s = true ∧ (∃ e, decode w = .error e) ∧ t = s.withFault ⟨.illegalCommand, w⟩)
        ∨ (s.hwait = .none ∧ commandReady w s = true ∧ ∃ i, decode w = .ok i ∧ exec i s = .next t)
        ∨ (s.hwait = .shutdown ∧ shutdownCompleteEnabled s = true ∧ exec .shutdownComplete s = .next t)
        ∨ (s.hwait = .cal ∧ calibrateCompleteEnabled s = true ∧ exec .calibrateComplete s = .next t)) := by
  obtain ⟨hu, w, hw, hc⟩ := hostEnabled_cases hf
  refine ⟨hu, w, hw, ?_⟩
  unfold hostStep at h
  rcases hc with ⟨hh, hr⟩ | ⟨hh, hr⟩ | ⟨hh, hr⟩
  · simp only [hh, hostWord, hw] at h
    unfold runCommand at h
    cases hd : decode w with
    | error e =>
      simp only [hd] at h
      obtain ⟨w', hw', rfl⟩ := raiseFault_next h
      rw [hw] at hw'
      cases hw'
      exact .inl ⟨hh, hr, ⟨e, rfl⟩, rfl⟩
    | ok i =>
      simp only [hd] at h
      exact .inr (.inl ⟨hh, hr, i, rfl, h⟩)
  · simp only [hh] at h
    exact .inr (.inr (.inl ⟨hh, hr, h⟩))
  · simp only [hh] at h
    exact .inr (.inr (.inr ⟨hh, hr, h⟩))

/-- Everything a step that answers a next state can have done. -/
theorem step_cases {s t : State} (h : step s = .next t) :
    s.cfg.legal = true ∧ s.fault = none
      ∧ ((s.sched = [] ∧ take (defaultChoice s) s = .next t)
        ∨ ∃ c cs, s.sched = c :: cs
          ∧ ((mayTake c s = true ∧ take c (s.withSched cs) = .next t)
            ∨ (mayTake c s = false ∧ t = s.withSched cs))) := by
  unfold step at h
  split at h
  · rename_i hl
    split at h
    · cases h
    · rename_i hf
      refine ⟨hl, hf, ?_⟩
      unfold runSchedule at h
      split at h
      · exact .inl ⟨by assumption, h⟩
      · rename_i c cs hs
        refine .inr ⟨c, cs, hs, ?_⟩
        cases he : mayTake c s with
        | true =>
          rw [he] at h
          exact .inl ⟨rfl, h⟩
        | false =>
          rw [he] at h
          cases h
          exact .inr ⟨rfl, rfl⟩
  · cases h

/-- Whether a step is enabled does not depend on the schedule. -/
@[simp] theorem enabled_withSched (c : Choice) (s : State) (l : List Choice) :
    enabled c (s.withSched l) = enabled c s := by
  cases c <;> rfl

@[simp] theorem mayTake_withSched (c : Choice) (s : State) (l : List Choice) :
    mayTake c (s.withSched l) = mayTake c s := by
  cases c <;> rfl

/-- R110: a move of any agent but the host leaves the host's own state alone. -/
theorem moves_keeps_host {c : Choice} {s t : State} (h : Moves c s t) (hc : c ≠ .host) :
    t.cfg = s.cfg ∧ t.gie = s.gie ∧ t.hprog = s.hprog ∧ t.hpc = s.hpc ∧ t.hwait = s.hwait ∧ t.hlog = s.hlog
      ∧ t.tail = s.tail ∧ t.fault = s.fault := by
  have ht := h.2
  cases c <;> simp only [take, exec] at ht
  case host => exact absurd rfl hc
  case tick =>
    rcases execTick_next ht with ⟨-, rfl⟩ | ⟨-, rfl⟩
    · exact ⟨rfl, rfl, rfl, rfl, rfl, rfl, rfl, rfl⟩
    · obtain ⟨_, _, _, _, _, _, e, -⟩ := tickBody_frame s
      rw [e]
      exact ⟨rfl, rfl, rfl, rfl, rfl, rfl, rfl, rfl⟩
  case env => rcases execEnv_next ht with ⟨-, rfl⟩ | ⟨-, rfl⟩ <;> exact ⟨rfl, rfl, rfl, rfl, rfl, rfl, rfl, rfl⟩
  case txh => rcases execTxh_next ht with ⟨-, rfl⟩ | ⟨-, rfl⟩ <;> exact ⟨rfl, rfl, rfl, rfl, rfl, rfl, rfl, rfl⟩
  case holdh => rcases execHoldh_next ht with ⟨-, rfl⟩ | ⟨-, rfl⟩ <;> exact ⟨rfl, rfl, rfl, rfl, rfl, rfl, rfl, rfl⟩
  case rxcaph => rcases execRxcaph_next ht with ⟨-, rfl⟩ | ⟨-, rfl⟩ <;> exact ⟨rfl, rfl, rfl, rfl, rfl, rfl, rfl, rfl⟩
  case rxsmph =>
    rcases execRxsmph_next ht with ⟨-, rfl⟩ | ⟨-, -, rfl⟩ | ⟨-, -, -, rfl⟩ | ⟨-, -, -, -, rfl⟩ <;>
      exact ⟨rfl, rfl, rfl, rfl, rfl, rfl, rfl, rfl⟩
  case calh =>
    rcases execCalh_next ht with ⟨-, rfl⟩ | ⟨-, rfl⟩
    · rcases calCapture_cases s with ⟨-, e⟩ | ⟨-, _, _, _, e⟩ | ⟨-, _, _, _, _, -, e⟩ <;> rw [e] <;>
        exact ⟨rfl, rfl, rfl, rfl, rfl, rfl, rfl, rfl⟩
    · exact ⟨rfl, rfl, rfl, rfl, rfl, rfl, rfl, rfl⟩

/-- What a step took, in terms of `chosen`: that choice, or nothing but the schedule's entry. -/
theorem step_chosen {s t : State} (h : step s = .next t) :
    (∃ c, chosen s = some c ∧ mayTake c s = true ∧ take c (s.withSched s.sched.tail) = .next t)
      ∨ (chosen s = none ∧ t = s.withSched s.sched.tail) := by
  obtain ⟨-, hf, ⟨hs, ht⟩ | ⟨c, cs, hs, ⟨hm, ht⟩ | ⟨hm, rfl⟩⟩⟩ := step_cases h
  · refine .inl ⟨defaultChoice s, by simp [chosen, hs], defaultChoice_mayTake hf, ?_⟩
    have e : s.withSched s.sched.tail = s := by
      rw [hs, List.tail_nil, ← hs]
      rfl
    rw [e]
    exact ht
  · exact .inl ⟨c, by simp [chosen, hs, hm], hm, by rw [hs]; exact ht⟩
  · exact .inr ⟨by simp [chosen, hs, hm], by rw [hs]; rfl⟩

end Sys2Proof.Machine
end

