-- ==== Sys2Proof/Tests/Slice0.lean ====
section
/-! SUPPORT. Tests: the well-formedness and configuration smoke tests, decoding, one-step tests whose expected results
are the vectors of 95_test_vectors.md named beside them, and a witness for the hypotheses of every statement. -/

namespace Sys2Proof.Tests

open Sys2Proof Sys2Proof.Machine

/-! ## Well-formedness (R12, R99) -/

theorem test_internal_steps_ill_formed :
    [Instr.tick, .env .rxd true, .push 0x41, .txh, .rxcaph, .rxsmph, .calh, .shutdownStart, .holdh, .shutdownComplete,
      .calibrateComplete].all (fun i => !i.WellFormed && encode i == none) = true := by decide

theorem test_example_configuration_legal : Config.example95.legal = true := by decide

theorem test_tpb_too_small : ({ Config.example95 with timing := .given 1 1 } : Config).legal = false := by decide

theorem test_tphb_not_below_tpb : ({ Config.example95 with timing := .given 8 8 } : Config).tphbOk = false := by decide

theorem test_bit_period_too_long : ({ Config.example95 with timing := .given 50000 25000 } : Config).legal = false := by
  decide

theorem test_target_delta_zero : ({ Config.example95 with targetDelta := 0 } : Config).legal = false := by decide

theorem test_target_delta_too_big : ({ Config.example95 with targetDelta := 65536 } : Config).legal = false := by decide

theorem test_ring_cap_no_power_of_two : ({ Config.example95 with ringCap := 6 } : Config).ringCapOk = false := by decide

theorem test_ring_cap_one : ({ Config.example95 with ringCap := 1 } : Config).ringCapOk = false := by decide

theorem test_stop_bits_three : ({ Config.example95 with stopBits := 3 } : Config).legal = false := by decide

theorem test_cal_max_iter_zero : ({ Config.example95 with calMaxIter := some 0 } : Config).calMaxIterOk = false := by
  decide

/-- L1-7: `TPB = floor(16,000,000 / 9600) = 1666` and `TPHB = 833`. -/
theorem test_derived_bit_timing :
    ({ Config.example95 with timing := .derived 16000000 9600 } : Config).tpb = 1666
      ∧ ({ Config.example95 with timing := .derived 16000000 9600 } : Config).tphb = 833 := by decide

theorem test_illegal_configuration_refused :
    step (State.launch { Config.example95 with stopBits := 3 } [] true false) = .refused .illegalConfiguration := rfl

/-! ## Decoding (L2-ENC) -/

theorem test_decode_calibrate : decode 0b0001000000000000#16 = .ok .calibrate := rfl
theorem test_decode_init : decode 0b0010000000000000#16 = .ok .init := rfl
theorem test_decode_shutdown : decode 0b0011000000000000#16 = .ok .shutdown := rfl
theorem test_decode_send : decode 0b0100000001000001#16 = .ok (.send 0x41) := rfl
theorem test_decode_send_all_ones : decode 0b0100000011111111#16 = .ok (.send 0xFF) := rfl
theorem test_decode_read : decode 0b0101000000000000#16 = .ok .read := rfl
theorem test_decode_read_unchecked : decode 0b0110000000000000#16 = .ok .readUnchecked := rfl
theorem test_decode_available : decode 0b0111000000000000#16 = .ok .available := rfl
theorem test_decode_is_empty : decode 0b1000000000000000#16 = .ok .isEmpty := rfl
theorem test_decode_eint : decode 0b1001000000000000#16 = .ok .eint := rfl
theorem test_decode_dint : decode 0b1010000000000000#16 = .ok .dint := rfl
theorem test_decode_status : decode 0b1011000000000000#16 = .ok .status := rfl
theorem test_decode_read_tuning : decode 0b1100000000000000#16 = .ok .readTuning := rfl

theorem test_decode_illegal :
    [0x0000#16, 0xD000, 0xE000, 0xF000, 0x4100, 0x5100, 0x5001, 0x2080, 0x9F00, 0xFFFF].all
      (fun w => decodeTableWord 16 w.toNat == none) = true := by decide

theorem test_encode_commands :
    [Instr.calibrate, .init, .shutdown, .send 0x41, .read, .readUnchecked, .available, .isEmpty, .eint, .dint, .status,
      .readTuning].map encode
      = [some 0x1000#16, some 0x2000, some 0x3000, some 0x4041, some 0x5000, some 0x6000, some 0x7000, some 0x8000,
        some 0x9000, some 0xA000, some 0xB000, some 0xC000] := by decide

/-! ## Assembler (R97, R98) -/

/-- L2-ENC: `PRINT "Hi\n"` gives 0x4048 0x4069 0x400A. -/
theorem test_print : assembleLine "PRINT \"Hi\\n\"".toList = some [0x4048#16, 0x4069, 0x400A] := by decide

/-- P1's listing, with R97's comment, case and byte forms. -/
theorem test_assemble_program :
    assemble ["INIT            ; 0x2000".toList, "eint".toList, "SEND 0x55".toList, "; the end".toList,
      "Send 'A'".toList, "SHUTDOWN".toList] = some [0x2000#16, 0x9000, 0x4055, 0x4041, 0x3000] := by decide

theorem test_assemble_rejects :
    assembleLine "SEND 256".toList = none ∧ assembleLine "SEND".toList = none ∧ assembleLine "READ 1".toList = none := by
  decide

/-! ## States to test on -/

/-- A field of the next state. -/
def after {α : Type} (o : Out) (f : State → α) : Option α :=
  match o with
  | .next s => some (f s)
  | _ => none

/-- The start state of 95_test_vectors.md with a host program. -/
def launched (p : List Word) : State := State.launch Config.example95 p true false

/-- A port after INIT and EINT, the line idle, with a host program. -/
def openPort (p : List Word) : State :=
  { launched p with
    pstate := .active, txd := .hi, outmod0 := .set, rxIe := true, cap1 := true, tmode := .cont, gie := true }

/-- The same port with a frame in flight whose next bit is due. -/
def sending (p : List Word) : State :=
  { openPort p with txIe := true, ifg0 := true, ccr0 := 8, tar := 8, txsr := 0x02AA }

/-- The same port in the idle hold, which is over. -/
def holdingPort (p : List Word) : State :=
  { openPort p with pstate := .holding, hwait := .shutdown, ifg0 := true, ccr0 := 88, tar := 88 }

/-- A calibration loop that has been started. -/
def calibratingBlock (p : List Word) : State :=
  { launched p with
    refdiv := 3, ccis1 := .ref, cm1 := .rising, cap1 := true, prev1 := false, tmode := .cont, calState := .prime,
    hwait := .cal }

/-- The same loop after the first capture, at 1000. -/
def measuring (p : List Word) : State :=
  { calibratingBlock p with calState := .run, lastCap := some 1000, ccr1 := 1103, ifg1 := true, tar := 1103 }

/-- The same loop without an iteration bound. -/
def unboundedBlock : State := { calibratingBlock [0x1000] with cfg := { Config.example95 with calMaxIter := none } }

/-- A frame being received with GIE 0. -/
def maskedReceive : State := { openPort [] with gie := false, cap1 := false, rxidx := 2, rxacc := 1 }

/-- A ring of two bytes. -/
def filled (p : List Word) : State := { launched p with buf := [(0, 0x0A), (1, 0x0B)], head := 2 }

/-! ## The control registers: numbers worked out from the bit positions of R55 -/

/-- CCTL0: IFG0 at 0, TX_IE at 4, OUTMOD0 = SET at 6:5. -/
theorem test_register_cctl0 : controlRegister 2 (sending []) = some (1 + 16 + 32) := by decide

/-- CCTL1: IFG1 at 0, SCCI1 at 3, CAP1 at 8, REF at 12, RISING at 14. -/
theorem test_register_cctl1 :
    controlRegister 4 { calibratingBlock [] with ifg1 := true, scci1 := true } = some (1 + 8 + 256 + 4096 + 16384) := by
  decide

/-- RXST: RXIDX at 2:0, RXACC at 15:8. -/
theorem test_register_rxst : controlRegister 7 maskedReceive = some (2 + 256) := by decide

/-- PORT: ACTIVE is 1, HI is 2 at 3:2, GIE at 4. -/
theorem test_register_port : controlRegister 12 (openPort []) = some (1 + 8 + 16) := by decide

/-! ## The host before the tick (C14 of 90_conflicts.md) -/

/-- A tick the schedule asks for does not pass while the host has a step. -/
theorem test_tick_waits_for_host :
    after (step { openPort [0x9000] with gie := false, sched := [.tick] }) (fun t => (t.now, t.hpc)) = some (0, 0) := by
  decide

/-- The host's step does, and the tick does once the host is done. -/
theorem test_host_then_tick :
    after (step { openPort [0x9000] with gie := false, sched := [.host] }) (fun t => (t.now, t.hpc)) = some (0, 1)
      ∧ after (step { openPort [] with sched := [.tick] }) (fun t => (t.now, t.hpc)) = some (1, 0) := by decide

/-! ## One step of each instruction -/

/-- L2-PORT-1. -/
theorem test_init :
    after (exec .init (launched [0x2000])) (fun t => (t.txd, t.cap1, t.rxIe, t.tmode, t.pstate, t.hpc))
      = some (.hi, true, true, .cont, .active, 1) := by decide

/-- L2-FAULT: INIT with GIE 1. -/
theorem test_init_with_gie :
    after (exec .init { launched [0x9000, 0x2000] with gie := true, hpc := 1 }) (fun t => (t.fault, t.hpc, t.pstate))
      = some (some ⟨.initWithGie, 0x2000⟩, 1, .inactive) := by decide

/-- P6. -/
theorem test_calibrate_preset :
    after (exec .calibrate { launched [0x1000] with cfg := { Config.example95 with calEnabled := false } })
      (fun t => (t.calState, t.tuneHi, t.tuneLo, t.hlog, t.hpc)) = some (.preset, 0xF, 0x8D, [0x0003], 1) := by decide

/-- P4, the row of tick 0. -/
theorem test_calibrate_start :
    after (exec .calibrate (launched [0x1000]))
      (fun t => (t.refdiv, t.ccis1, t.cm1, t.calState, t.hwait, t.hpc))
      = some (3, .ref, .rising, .prime, .cal, 0) := by decide

/-- L2-PORT-2, and R212: the host waits at the command. -/
theorem test_shutdown :
    after (exec .shutdown { openPort [0x3000] with tar := 80 }) (fun t => (t.ccr0, t.pstate, t.txd, t.hwait, t.hpc))
      = some (88, .holding, .hi, .shutdown, 0) := by decide

/-- L2-FAULT: SHUTDOWN before INIT. -/
theorem test_shutdown_inactive :
    after (exec .shutdown (launched [0x3000])) (·.fault) = some (some ⟨.shutdownInactive, 0x3000⟩) := by decide

theorem test_shutdown_start :
    after (exec .shutdownStart { openPort [0x3000] with tar := 0xFFFC }) (fun t => (t.ccr0, t.pstate, t.hwait))
      = some (4, .holding, .shutdown) := by decide

/-- L2-TX-2, at the wrap of TAR. -/
theorem test_send :
    after (exec (.send 0x55) { openPort [0x4055] with tar := 0xFFF0, ifg0 := true })
      (fun t => (t.ccr0, t.ifg0, t.txIe, t.txsr, t.txd, t.hpc))
      = some (0xFFF8, false, true, 0x02AA, .hi, 1) := by decide

/-- L2-FAULT: SEND before INIT. -/
theorem test_send_inactive :
    after (exec (.send 0x41) (launched [0x4041])) (·.fault) = some (some ⟨.sendInactive, 0x4041⟩) := by decide

/-- L2-RING-1. -/
theorem test_read :
    after (exec .read (filled [0x5000])) (fun t => (t.hlog, t.head, t.tail, t.hpc)) = some ([0x010A], 2, 1, 1) := by
  decide

/-- L2-RING-3. -/
theorem test_read_empty :
    after (exec .read (launched [0x5000])) (fun t => (t.hlog, t.head, t.tail, t.hpc)) = some ([0x0000], 0, 0, 1) := by
  decide

/-- L2-RING-4. -/
theorem test_read_unchecked :
    after (exec .readUnchecked { launched [0x6000] with buf := [(0, 0x00)], head := 1 }) (fun t => (t.hlog, t.tail))
      = some ([0x0000], 1) := by decide

/-- L2-FAULT: READ_UNCHECKED on an empty ring. -/
theorem test_read_unchecked_empty :
    after (exec .readUnchecked (launched [0x6000])) (fun t => (t.fault, t.hpc))
      = some (some ⟨.uncheckedReadEmpty, 0x6000⟩, 0) := by decide

/-- L2-RING-1: 0x0003 with HEAD 0 and TAIL 1. -/
theorem test_available :
    after (exec .available { launched [0x7000] with tail := 1 }) (·.hlog) = some [0x0003] := by decide

/-- L2-RING-1. -/
theorem test_is_empty : after (exec .isEmpty (launched [0x8000])) (·.hlog) = some [0x0001] := by decide

theorem test_eint : after (exec .eint (launched [0x9000])) (fun t => (t.gie, t.hpc)) = some (true, 1) := by decide

theorem test_dint : after (exec .dint (openPort [0xA000])) (fun t => (t.gie, t.hpc)) = some (false, 1) := by decide

/-- L2-PORT-3: 0x80 from reset. -/
theorem test_status_reset : after (exec .status (launched [0xB000])) (·.hlog) = some [0x0080] := by decide

/-- L2-PORT-3: 0xC3 when ACTIVE, TX_BUSY and GIE. -/
theorem test_status_busy : after (exec .status (sending [0xB000])) (·.hlog) = some [0x00C3] := by decide

/-- L2-PORT-4. -/
theorem test_read_tuning : after (exec .readTuning (launched [0xC000])) (·.hlog) = some [0x07FE] := by decide

/-- L2-RING-1: accepted into slot 3, HEAD wraps to 0. -/
theorem test_push :
    after (exec (.push 0x0D) { filled [] with head := 3, tail := 1 }) (fun t => (t.buf, t.head, t.tail))
      = some ([(0, 0x0A), (1, 0x0B), (3, 0x0D)], 0, 1) := by decide

/-- L2-RING-1: dropped, nothing written. -/
theorem test_push_full :
    after (exec (.push 0x0D) { filled [] with head := 3 }) (fun t => (t.buf, t.head)) = some ([(0, 0x0A), (1, 0x0B)], 3) := by
  decide

/-- L2-TX-3, the row of NOW 8. -/
theorem test_txh_start_bit :
    after (exec .txh (sending [])) (fun t => (t.txd, t.txsr, t.ccr0, t.txIe, t.ifg0)) = some (.lo, 0x0155, 16, true, false) := by
  decide

/-- L2-TX-3, the row of NOW 80. -/
theorem test_txh_last_bit :
    after (exec .txh { sending [] with txsr := 1, ccr0 := 80 }) (fun t => (t.txd, t.txsr, t.ccr0, t.txIe))
      = some (.hi, 0, 88, false) := by decide

/-- L2-RX-1. -/
theorem test_rxcaph :
    after (exec .rxcaph { openPort [] with ccr1 := 100, ifg1 := true }) (fun t => (t.ccr1, t.cap1, t.rxidx, t.rxacc, t.ifg1))
      = some (112, false, 0, 0, false) := by decide

/-- L2-RX-1b, the first half. -/
theorem test_rxsmph :
    after (exec .rxsmph { openPort [] with cap1 := false, ifg1 := true, rxidx := 2, rxacc := 1, scci1 := true, ccr1 := 48 })
      (fun t => (t.rxacc, t.rxidx, t.ccr1, t.ifg1)) = some (5, 3, 56, false) := by decide

/-- L2-RX-1b, the second half. -/
theorem test_rxsmph_frame_done :
    after (exec .rxsmph { openPort [] with cap1 := false, ifg1 := true, rxidx := 7, rxacc := 0x25, scci1 := true })
      (fun t => (t.buf, t.head, t.rxacc, t.rxidx, t.cap1)) = some ([(0, 0xA5)], 1, 0, 0, true) := by decide

/-- L2-CAL-3: delta 103, STEP_DOWN. -/
theorem test_calh_step_down :
    after (exec .calh (measuring [0x1000])) (fun t => (t.tuneHi, t.tuneLo, t.lastCap, t.calIter, t.calState))
      = some (7, 0xFD, some 1103, 1, .run) := by decide

/-- L2-CAL-3: the delta wraps, and L2-CAL-4. -/
theorem test_calh_done :
    after (exec .calh { measuring [0x1000] with lastCap := some 0xFFD0, ccr1 := 0x0034 })
      (fun t => (t.calState, t.refdiv, t.tmode, t.lastCap)) = some (.done, 0, .stop, some 0x0034) := by decide

/-- L2-CAL-1. -/
theorem test_tuning_steps :
    [stepDown (7, 0x00), stepDown (0, 0x00), stepDown (8, 0x00), stepDown (7, 0x42)] = [(6, 0xFF), (0, 0xFF), (7, 0xFF), (7, 0x41)]
      ∧ [stepUp (7, 0xFF), stepUp (15, 0xFF), stepUp (3, 0x40), stepUp (15, 0x10)] = [(8, 0x00), (15, 0x00), (3, 0x41), (15, 0x11)] := by
  decide

/-- R213, P1: released at 88. -/
theorem test_holdh :
    after (exec .holdh (holdingPort [0x3000])) (fun t => (t.txd, t.tmode, t.pstate, t.rxIe, t.cap1, t.hwait))
      = some (.rel, .stop, .inactive, false, false, .shutdown) := by decide

theorem test_shutdown_complete :
    after (exec .shutdownComplete { launched [0x3000] with hwait := .shutdown }) (fun t => (t.hwait, t.hpc)) = some (.none, 1) := by
  decide

/-- P4: the completion logs 0x0001. -/
theorem test_calibrate_complete :
    after (exec .calibrateComplete { launched [0x1000] with hwait := .cal, calState := .done })
      (fun t => (t.hlog, t.hwait, t.hpc)) = some ([0x0001], .none, 1) := by decide

/-- L2-TX-3: the compare's output action drives TXD HI before TXH. -/
theorem test_tick_compare0 :
    after (exec .tick { openPort [] with ccr0 := 8, tar := 7, txd := .lo }) (fun t => (t.tar, t.now, t.txd, t.ifg0))
      = some (8, 1, .hi, true) := by decide

/-- L2-RX-2: the capture at TAR 20. -/
theorem test_tick_capture :
    after (exec .tick { openPort [] with tar := 19, rxdIn := false }) (fun t => (t.ccr1, t.ifg1, t.prev1)) = some (20, true, false) := by
  decide

theorem test_env : after (exec (.env .rxd false) (launched [])) (fun t => (t.rxdIn, t.refIn)) = some (false, false) := by
  decide

/-- A placed word is what the next step runs (notes/assumptions/9.md). -/
theorem test_fetch_word :
    after (step (State.reset.withFetchWord 16 0x2000)) (fun t => (t.pstate, t.hpc)) = some (.active, 1) := by decide

/-- L2-FAULT: the all-zero word, and the outcome R241 reports after it. -/
theorem test_illegal_word :
    after (step (launched [0x0000])) (·.fault) = some (some ⟨.illegalCommand, 0x0000⟩)
      ∧ step { launched [0x0000] with fault := some ⟨.illegalCommand, 0x0000⟩ } = .fault (.recorded .illegalCommand 0x0000) := by
  exact ⟨by decide, rfl⟩

/-! ## Witnesses: states and operands that meet the hypotheses of the statements -/

theorem inv_launched (p : List Word) : (launched p).Inv where
  ring := {
    legal := test_example_configuration_legal
    headRange := (by decide : 0 < 4)
    tailRange := (by decide : 0 < 4)
    ringHolds := fun k hk => absurd hk (Nat.not_lt_zero k)
    bufWf := List.Pairwise.nil
    bufRange := fun _ h => nomatch h }
  tarRange := (by decide : 0 < 2 ^ 16)
  ccr0Range := (by decide : 0 < 2 ^ 16)
  ccr1Range := (by decide : 0 < 2 ^ 16)
  lastCapRange := fun _ h => nomatch h
  accLow := (by decide : 0 < 2 ^ 0)
  txBusy := fun h => nomatch h
  holding := fun h => nomatch h
  calibration := fun h => nomatch h
  captured := fun h => nomatch h
  portClosed := fun _ => ⟨rfl, rfl, rfl⟩
  portOpen := fun h => absurd rfl h
  timerIdle := fun _ _ => rfl
  hpcRange := Nat.zero_le _
  waiting := fun h => absurd rfl h
  waitsShutdown := fun h => nomatch h
  waitsCal := fun h => nomatch h
  faultWord := fun _ h => nomatch h

theorem inv_openPort (p : List Word) : (openPort p).Inv where
  ring := {
    legal := test_example_configuration_legal
    headRange := (by decide : 0 < 4)
    tailRange := (by decide : 0 < 4)
    ringHolds := fun k hk => absurd hk (Nat.not_lt_zero k)
    bufWf := List.Pairwise.nil
    bufRange := fun _ h => nomatch h }
  tarRange := (by decide : 0 < 2 ^ 16)
  ccr0Range := (by decide : 0 < 2 ^ 16)
  ccr1Range := (by decide : 0 < 2 ^ 16)
  lastCapRange := fun _ h => nomatch h
  accLow := (by decide : 0 < 2 ^ 0)
  txBusy := fun h => nomatch h
  holding := fun h => nomatch h
  calibration := fun h => nomatch h
  captured := fun h => nomatch h
  portClosed := fun h => nomatch h
  portOpen := fun _ => ⟨(nomatch ·), rfl, rfl, rfl, rfl, rfl⟩
  timerIdle := fun h => nomatch h
  hpcRange := Nat.zero_le _
  waiting := fun h => absurd rfl h
  waitsShutdown := fun h => nomatch h
  waitsCal := fun h => nomatch h
  faultWord := fun _ h => nomatch h

theorem inv_holdingPort : (holdingPort [0x3000]).Inv where
  ring := {
    legal := test_example_configuration_legal
    headRange := (by decide : 0 < 4)
    tailRange := (by decide : 0 < 4)
    ringHolds := fun k hk => absurd hk (Nat.not_lt_zero k)
    bufWf := List.Pairwise.nil
    bufRange := fun _ h => nomatch h }
  tarRange := (by decide : 88 < 2 ^ 16)
  ccr0Range := (by decide : 88 < 2 ^ 16)
  ccr1Range := (by decide : 0 < 2 ^ 16)
  lastCapRange := fun _ h => nomatch h
  accLow := (by decide : 0 < 2 ^ 0)
  txBusy := fun h => nomatch h
  holding := fun _ => ⟨rfl, rfl⟩
  calibration := fun h => nomatch h
  captured := fun h => nomatch h
  portClosed := fun h => nomatch h
  portOpen := fun _ => ⟨(nomatch ·), rfl, rfl, rfl, rfl, rfl⟩
  timerIdle := fun h => nomatch h
  hpcRange := Nat.zero_le _
  waiting := fun _ => Nat.zero_lt_one
  waitsShutdown := fun _ h => nomatch h
  waitsCal := fun h => nomatch h
  faultWord := fun _ h => nomatch h

theorem inv_calibratingBlock : (calibratingBlock [0x1000]).Inv where
  ring := {
    legal := test_example_configuration_legal
    headRange := (by decide : 0 < 4)
    tailRange := (by decide : 0 < 4)
    ringHolds := fun k hk => absurd hk (Nat.not_lt_zero k)
    bufWf := List.Pairwise.nil
    bufRange := fun _ h => nomatch h }
  tarRange := (by decide : 0 < 2 ^ 16)
  ccr0Range := (by decide : 0 < 2 ^ 16)
  ccr1Range := (by decide : 0 < 2 ^ 16)
  lastCapRange := fun _ h => nomatch h
  accLow := (by decide : 0 < 2 ^ 0)
  txBusy := fun h => nomatch h
  holding := fun h => nomatch h
  calibration := fun _ => ⟨rfl, rfl, rfl, rfl, rfl, rfl, rfl⟩
  captured := fun h => nomatch h
  portClosed := fun _ => ⟨rfl, rfl, rfl⟩
  portOpen := fun h => absurd rfl h
  timerIdle := fun _ h => nomatch h
  hpcRange := Nat.zero_le _
  waiting := fun _ => Nat.zero_lt_one
  waitsShutdown := fun h => nomatch h
  waitsCal := fun _ => ⟨rfl, .inl rfl⟩
  faultWord := fun _ h => nomatch h

theorem inv_faulted : (({ launched [0x0000] with fault := some ⟨.illegalCommand, 0x0000⟩ } : State)).Inv where
  ring := {
    legal := test_example_configuration_legal
    headRange := (by decide : 0 < 4)
    tailRange := (by decide : 0 < 4)
    ringHolds := fun k hk => absurd hk (Nat.not_lt_zero k)
    bufWf := List.Pairwise.nil
    bufRange := fun _ h => nomatch h }
  tarRange := (by decide : 0 < 2 ^ 16)
  ccr0Range := (by decide : 0 < 2 ^ 16)
  ccr1Range := (by decide : 0 < 2 ^ 16)
  lastCapRange := fun _ h => nomatch h
  accLow := (by decide : 0 < 2 ^ 0)
  txBusy := fun h => nomatch h
  holding := fun h => nomatch h
  calibration := fun h => nomatch h
  captured := fun h => nomatch h
  portClosed := fun _ => ⟨rfl, rfl, rfl⟩
  portOpen := fun h => absurd rfl h
  timerIdle := fun _ _ => rfl
  hpcRange := Nat.zero_le _
  waiting := fun h => absurd rfl h
  waitsShutdown := fun h => nomatch h
  waitsCal := fun h => nomatch h
  faultWord := fun _ h => by cases h; rfl

theorem inv_stalled : (({ sending [0x4041] with gie := false } : State)).Inv where
  ring := {
    legal := test_example_configuration_legal
    headRange := (by decide : 0 < 4)
    tailRange := (by decide : 0 < 4)
    ringHolds := fun k hk => absurd hk (Nat.not_lt_zero k)
    bufWf := List.Pairwise.nil
    bufRange := fun _ h => nomatch h }
  tarRange := (by decide : 8 < 2 ^ 16)
  ccr0Range := (by decide : 8 < 2 ^ 16)
  ccr1Range := (by decide : 0 < 2 ^ 16)
  lastCapRange := fun _ h => nomatch h
  accLow := (by decide : 0 < 2 ^ 0)
  txBusy := fun _ => ⟨rfl, (by decide : (0x02AA : BitVec 16) ≠ 0)⟩
  holding := fun h => nomatch h
  calibration := fun h => nomatch h
  captured := fun h => nomatch h
  portClosed := fun h => nomatch h
  portOpen := fun _ => ⟨(nomatch ·), rfl, rfl, rfl, rfl, rfl⟩
  timerIdle := fun h => nomatch h
  hpcRange := Nat.zero_le _
  waiting := fun h => absurd rfl h
  waitsShutdown := fun h => nomatch h
  waitsCal := fun h => nomatch h
  faultWord := fun _ h => nomatch h

theorem inv_maskedReceive : (maskedReceive).Inv where
  ring := {
    legal := test_example_configuration_legal
    headRange := (by decide : 0 < 4)
    tailRange := (by decide : 0 < 4)
    ringHolds := fun k hk => absurd hk (Nat.not_lt_zero k)
    bufWf := List.Pairwise.nil
    bufRange := fun _ h => nomatch h }
  tarRange := (by decide : 0 < 2 ^ 16)
  ccr0Range := (by decide : 0 < 2 ^ 16)
  ccr1Range := (by decide : 0 < 2 ^ 16)
  lastCapRange := fun _ h => nomatch h
  accLow := (by decide : 1 < 2 ^ 2)
  txBusy := fun h => nomatch h
  holding := fun h => nomatch h
  calibration := fun h => nomatch h
  captured := fun h => nomatch h
  portClosed := fun h => nomatch h
  portOpen := fun _ => ⟨(nomatch ·), rfl, rfl, rfl, rfl, rfl⟩
  timerIdle := fun h => nomatch h
  hpcRange := Nat.zero_le _
  waiting := fun h => absurd rfl h
  waitsShutdown := fun h => nomatch h
  waitsCal := fun h => nomatch h
  faultWord := fun _ h => nomatch h

theorem inv_unboundedBlock : (unboundedBlock).Inv where
  ring := {
    legal := (by decide : ({ Config.example95 with calMaxIter := none } : Config).legal = true)
    headRange := (by decide : 0 < 4)
    tailRange := (by decide : 0 < 4)
    ringHolds := fun k hk => absurd hk (Nat.not_lt_zero k)
    bufWf := List.Pairwise.nil
    bufRange := fun _ h => nomatch h }
  tarRange := (by decide : 0 < 2 ^ 16)
  ccr0Range := (by decide : 0 < 2 ^ 16)
  ccr1Range := (by decide : 0 < 2 ^ 16)
  lastCapRange := fun _ h => nomatch h
  accLow := (by decide : 0 < 2 ^ 0)
  txBusy := fun h => nomatch h
  holding := fun h => nomatch h
  calibration := fun _ => ⟨rfl, rfl, rfl, rfl, rfl, rfl, rfl⟩
  captured := fun h => nomatch h
  portClosed := fun _ => ⟨rfl, rfl, rfl⟩
  portOpen := fun h => absurd rfl h
  timerIdle := fun _ h => nomatch h
  hpcRange := Nat.zero_le _
  waiting := fun _ => Nat.zero_lt_one
  waitsShutdown := fun h => nomatch h
  waitsCal := fun _ => ⟨rfl, .inl rfl⟩
  faultWord := fun _ h => nomatch h

theorem ringOk_filled (p : List Word) : (filled p).RingOk where
  legal := test_example_configuration_legal
  headRange := (by decide : 2 < 4)
  tailRange := (by decide : 0 < 4)
  ringHolds := (by decide : ∀ k, k < 2 → (Memory.read (addC Config.example95 0 k) [(0, 0x0A), (1, 0x0B)]).isSome = true)
  bufWf := (by decide : Memory.wf [(0, 0x0A), (1, 0x0B)])
  bufRange := (by decide : ∀ x ∈ [((0 : Nat), (0x0A : Byte)), (1, 0x0B)], x.1 < 4)

theorem listening_openPort (p : List Word) : (openPort p).Listening :=
  ⟨inv_openPort p, rfl, rfl, rfl, rfl, rfl, rfl, rfl⟩

/-- Every way a word can be illegal, with a state whose host step decodes it. -/
theorem witness_IllegalWordsFault :
    decode 0x0FFF#16 = .error .reservedField ∧ decode 0x00FF#16 = .error .unassignedOp
      ∧ decode 0xD000#16 = .error .unassignedOp ∧ decode 0xE000#16 = .error .unassignedOp
      ∧ decode 0xFF00#16 = .error .reservedField ∧ decode 0xF000#16 = .error .unassignedOp
      ∧ decode 0x4100#16 = .error .reservedField ∧ decode 0xC001#16 = .error .operandNotZero
      ∧ (launched [0xC001]).hwait = .none ∧ (launched [0xC001]).hprog[(launched [0xC001]).hpc]? = some 0xC001#16 :=
  ⟨rfl, rfl, rfl, rfl, rfl, rfl, rfl, rfl, rfl, rfl⟩

theorem witness_EncodeDecodeRoundTrip : (Instr.send 0xFF).WellFormed = true ∧ Instr.readTuning.WellFormed = true := ⟨rfl, rfl⟩

theorem witness_DecodedWords :
    decode 0x4000#16 = .ok (.send 0) ∧ (0x4000#16).extractLsb' 12 4 = 0x4#4 ∧ decode 0x5000#16 = .ok .read
      ∧ (0x5000#16).extractLsb' 12 4 ≠ 0x4#4 := by decide

/-- The first and the last printable character, the semicolon and the four escapes. -/
theorem witness_PrintAssemblesToSends :
    ∀ x ∈ [([' '], BitVec.ofNat 8 0x20), (['~'], BitVec.ofNat 8 0x7E), ([';'], BitVec.ofNat 8 0x3B), (['\\', 'r'], 0x0D#8),
        (['\\', 'n'], 0x0A#8), (['\\', '\\'], 0x5C#8), (['\\', '"'], 0x22#8)],
      (∃ c : Char, 0x20 ≤ c.toNat ∧ c.toNat ≤ 0x7E ∧ c ≠ '"' ∧ c ≠ '\\' ∧ x = ([c], BitVec.ofNat 8 c.toNat))
        ∨ x = (['\\', 'r'], 0x0D#8) ∨ x = (['\\', 'n'], 0x0A#8) ∨ x = (['\\', '\\'], 0x5C#8)
        ∨ x = (['\\', '"'], 0x22#8) := by
  simp only [List.forall_mem_cons]
  exact ⟨.inl ⟨' ', by decide⟩, .inl ⟨'~', by decide⟩, .inl ⟨';', by decide⟩, .inr (.inl trivial), .inr (.inr (.inl trivial)),
    .inr (.inr (.inr (.inl trivial))), .inr (.inr (.inr (.inr trivial))), fun _ h => nomatch h⟩

theorem witness_LegalConfigurations :
    Config.example95.legal = true ∧ Config.example95.calMaxIter = some 16
      ∧ ({ Config.example95 with calMaxIter := none, ringCap := 2 ^ 15, timing := .given 2 1 } : Config).legal = true := by
  decide

theorem witness_LaunchMeetsInvariant : Config.example95.legal = true := by decide

theorem witness_StepKeepsInvariant : ∃ t, (openPort [0x3000]).Inv ∧ step (openPort [0x3000]) = .next t :=
  ⟨_, inv_openPort _, rfl⟩

theorem witness_InvariantStatesAlwaysStep : (openPort [0x3000]).Inv ∧ (openPort [0x3000]).fault = none := ⟨inv_openPort _, rfl⟩

theorem witness_StepRunsDecodedCommand :
    ∃ s : State, s = launched [0x2000] ∧ s.cfg.legal = true ∧ s.fault = none ∧ s.hwait = .none ∧ urgent s = false
      ∧ s.hprog[s.hpc]? = some 0x2000#16 ∧ decode 0x2000#16 = .ok .init ∧ commandReady 0x2000 s = true ∧ s.sched = []
      ∧ ({ s with sched := [.host] } : State).sched = .host :: [] :=
  ⟨_, rfl, by decide, rfl, rfl, rfl, rfl, rfl, rfl, rfl, rfl⟩

theorem witness_FetchWordRunsNext :
    State.reset.cfg.legal = true ∧ decode (BitVec.ofNat 16 0xC000) = .ok .readTuning ∧ 0xC000 < 2 ^ 16 := by decide

theorem witness_EnabledSteps :
    (launched [0x2000]).cfg.legal = true ∧ enabled .host (launched [0x2000]) = true
      ∧ enabled .tick (launched [0x2000]) = true ∧ enabled .tick (launched []) = true ∧ enabled .host (launched []) = false
      ∧ enabled .holdh (holdingPort [0x3000]) = true ∧ enabled .txh (sending []) = true := by decide

theorem witness_StepTakesAnEnabledStep :
    (∃ t, step (launched []) = .next t)
      ∧ (∃ t, step { launched [] with sched := [.txh] } = .next t)
      ∧ ∃ t, step { launched [0x2000] with sched := [.tick] } = .next t := ⟨⟨_, rfl⟩, ⟨_, rfl⟩, ⟨_, rfl⟩⟩

theorem witness_FaultedStateHasNoStep :
    ∃ s : State, s = { launched [0x0000] with fault := some ⟨.illegalCommand, 0x0000⟩ } ∧ s.hprog[s.hpc]? = some 0x0000#16
      ∧ s.fault = some ⟨.illegalCommand, 0x0000⟩ ∧ s.Inv ∧ s.cfg.legal = true :=
  ⟨_, rfl, rfl, rfl, inv_faulted, by decide⟩

theorem witness_FaultConditions :
    (launched [0x6000]).fault = none ∧ (launched [0x6000]).hwait = .none
      ∧ (launched [0x6000]).hprog[(launched [0x6000]).hpc]? = some 0x6000#16
      ∧ ∃ t, exec .readUnchecked (launched [0x6000]) = .next t := ⟨rfl, rfl, rfl, _, rfl⟩

/-- The last number of the table and the first beyond it. -/
theorem witness_ControlRegisters : 9 ≤ 12 ∧ 12 ≠ 10 ∧ 12 ≠ 11 ∧ 12 < 13 := by decide

theorem witness_SamplesAssembleByte : 0 < 8 ∧ 7 < 8 := by decide

theorem witness_CalibrateResult :
    ((launched [0x1000]).pstate = .inactive ∧ (launched [0x1000]).cfg.calEnabled = true)
      ∧ ({ launched [0x1000] with cfg := { Config.example95 with calEnabled := false } } : State).cfg.calEnabled = false
      ∧ (openPort [0x1000]).pstate ≠ .inactive ∧ (openPort [0x1000]).hprog[(openPort [0x1000]).hpc]? = some 0x1000#16 := by
  decide

/-- The clauses of PRIME, of no value, of the converged measurement, of a step down and of the bound. -/
theorem witness_CalhResult :
    ({ calibratingBlock [0x1000] with ifg1 := true } : State).calState = .prime
      ∧ (measuring [0x1000]).ifg1 = true ∧ (measuring [0x1000]).calState = .run ∧ (measuring [0x1000]).lastCap = some 1000
      ∧ ({ measuring [0x1000] with lastCap := none } : State).lastCap = none
      ∧ subW Config.example95 1100 1000 = Config.example95.targetDelta
      ∧ subW Config.example95 1103 1000 ≠ Config.example95.targetDelta
      ∧ Config.example95.calSense = .convergent ∧ Config.example95.targetDelta < subW Config.example95 1103 1000
      ∧ Config.example95.calMaxIter = some 16 ∧ (measuring [0x1000]).calIter + 1 < 16 ∧ 16 ≤ 15 + 1 := by decide

theorem witness_CompletionResults :
    (∃ s : State, s = { launched [0x1000] with hwait := .cal, calState := .done } ∧ urgent s = false ∧ s.hwait = .cal)
      ∧ (∃ s : State, s = { launched [0x1000] with hwait := .cal, calState := .fail } ∧ urgent s = false ∧ s.calState = .fail)
      ∧ ∃ s : State, s = { launched [0x3000] with hwait := .shutdown } ∧ urgent s = false ∧ s.hwait = .shutdown
        ∧ s.pstate = .inactive :=
  ⟨⟨_, rfl, rfl, rfl⟩, ⟨_, rfl, rfl, rfl⟩, _, rfl, rfl, rfl, rfl⟩

/-- The coarse register moves at the fine wrap, downwards and upwards. -/
theorem witness_CoarseMovesAtFineWrap :
    (∃ t, exec .calh { measuring [] with tuneLo := 0 } = .next t ∧ t.tuneHi = 6)
      ∧ ∃ t, exec .calh { measuring [] with tuneLo := 255, ccr1 := 1097 } = .next t ∧ t.tuneHi = 8 :=
  ⟨⟨_, rfl, by decide⟩, _, rfl, by decide⟩

/-- An exact code three steps above the start code 0x7FE, as in P4. -/
theorem witness_CalibrationConverges :
    ∃ (s : State) (f : Nat → Nat), s = { measuring [0x1000] with
        cfg := { Config.example95 with targetDelta := 2149, calMaxIter := some 4 } }
      ∧ s.cfg.legal = true ∧ s.cfg.calSense = .convergent ∧ s.calState = .run ∧ s.lastCap = some 1000
      ∧ 1000 < 2 ^ s.cfg.timerW ∧ (∀ a b, a < b → b < 4096 → f a < f b) ∧ (∀ a, a < 4096 → f a < 2 ^ s.cfg.timerW)
      ∧ 0x801 < 4096 ∧ f 0x801 = s.cfg.targetDelta ∧ 3 + tuneCode s = 0x801
      ∧ ∀ n, s.cfg.calMaxIter = some n → s.calIter + 3 < n := by
  refine ⟨_, fun n => n + 100, rfl, by decide, rfl, rfl, rfl, by decide, fun a b h _ => by dsimp only; omega, fun a h => ?_,
    by decide, rfl, rfl, fun n h => ?_⟩
  · exact Nat.lt_of_lt_of_le (Nat.add_lt_add_right h 100) (by decide)
  · cases h
    decide

theorem witness_InitResult :
    ((launched [0x2000]).pstate = .inactive ∧ (launched [0x2000]).gie = false)
      ∧ (launched [0x2000]).hprog[(launched [0x2000]).hpc]? = some 0x2000#16 ∧ (openPort [0x2000]).pstate ≠ .inactive
      ∧ ({ launched [0x2000] with gie := true } : State).gie = true := by decide

theorem witness_ShutdownResult :
    ((openPort [0x3000]).pstate ≠ .inactive ∧ (openPort [0x3000]).txIe = false) ∧ (sending [0x3000]).txIe = true
      ∧ (sending [0x3000]).pstate ≠ .inactive ∧ (launched [0x3000]).pstate = .inactive
      ∧ (launched [0x3000]).hprog[(launched [0x3000]).hpc]? = some 0x3000#16 := by decide

theorem witness_HoldhResult :
    (holdingPort [0x3000]).ifg0 = true ∧ (holdingPort [0x3000]).pstate = .holding
      ∧ rxcaphEnabled (holdingPort [0x3000]) = false ∧ rxsmphEnabled (holdingPort [0x3000]) = false := by decide

theorem witness_InterruptEnableResult :
    (∃ t, exec .eint (sending [0x9000]) = .next t) ∧ (sending [0x9000]).ifg0 = true ∧ (sending [0x9000]).txIe = true
      ∧ ({ openPort [0x9000] with ifg1 := true } : State).rxIe = true := ⟨⟨_, rfl⟩, rfl, rfl, rfl⟩

theorem witness_SendResult :
    ((openPort [0x4041]).pstate = .active ∧ (openPort [0x4041]).txIe = false) ∧ (sending [0x4041]).txIe = true
      ∧ (launched [0x4041]).pstate ≠ .active ∧ (launched [0x4041]).hprog[(launched [0x4041]).hpc]? = some 0x4041#16 := by
  decide

theorem witness_FrameBits :
    Config.example95.stopBits = 1 ∧ ({ Config.example95 with stopBits := 2 } : Config).stopBits = 2 := by decide

theorem witness_TxhResult : (sending []).ifg0 = true ∧ (sending []).txIe = true ∧ (sending []).gie = true := by decide

/-- The start of a frame has been captured. -/
def captured : State := { openPort [] with ifg1 := true, ccr1 := 100 }

theorem witness_RxcaphResult : captured.ifg1 = true ∧ captured.rxIe = true ∧ captured.gie = true ∧ captured.cap1 = true := by
  decide

/-- The clauses of a sample before the last, of the last with a full ring and of the last with room, and of a HEAD out of range. -/
theorem witness_RxsmphResult :
    ∃ s : State, s = { captured with cap1 := false, rxidx := 7 } ∧ s.ifg1 = true ∧ s.rxIe = true ∧ s.gie = true
      ∧ s.cap1 = false ∧ s.rxidx = 7#3 ∧ (s.head + 1) % s.cfg.ringCap ≠ s.tail ∧ s.head < s.cfg.ringCap
      ∧ ({ s with rxidx := 6 } : State).rxidx ≠ 7#3 ∧ (3 + 1) % s.cfg.ringCap = s.tail
      ∧ (4 + 1) % s.cfg.ringCap ≠ s.tail ∧ s.cfg.ringCap ≤ 4 :=
  ⟨_, rfl, rfl, rfl, rfl, rfl, rfl, by decide, by decide, by decide, rfl, by decide, by decide⟩

theorem witness_PushResult :
    ((filled []).head + 1) % (filled []).cfg.ringCap ≠ (filled []).tail ∧ (filled []).head < (filled []).cfg.ringCap
      ∧ (({ filled [] with head := 3 } : State).head + 1) % (filled []).cfg.ringCap = (filled []).tail
      ∧ (4 + 1) % (filled []).cfg.ringCap ≠ (filled []).tail ∧ (filled []).cfg.ringCap ≤ 4 := by decide

/-- The clauses of an empty ring, of a byte, of a slot without a value and of a slot that does not exist. -/
theorem witness_ReadResult :
    (launched []).head = (launched []).tail ∧ (filled []).head ≠ (filled []).tail
      ∧ (filled []).tail < (filled []).cfg.ringCap ∧ Memory.read (filled []).tail (filled []).buf = some 0x0A#8
      ∧ Memory.read 3 (filled []).buf = none ∧ (filled []).head ≠ 3 ∧ 3 < (filled []).cfg.ringCap
      ∧ (filled []).cfg.ringCap ≤ 4 ∧ (filled []).head ≠ 4 := by decide

theorem witness_ReadUncheckedResult :
    (launched [0x6000]).head = (launched [0x6000]).tail
      ∧ (launched [0x6000]).hprog[(launched [0x6000]).hpc]? = some 0x6000#16
      ∧ (filled []).head ≠ (filled []).tail ∧ (filled []).tail < (filled []).cfg.ringCap
      ∧ Memory.read (filled []).tail (filled []).buf = some 0x0A#8 ∧ Memory.read 3 (filled []).buf = none
      ∧ (filled []).cfg.ringCap ≤ 4 := by decide

theorem witness_RingCountResults : (filled []).RingOk := ringOk_filled []

theorem witness_CapacityLaw :
    (launched []).RingOk ∧ (launched []).head = (launched []).tail
      ∧ [0x0A#8, 0x0B, 0x0C].length = (launched []).cfg.ringCap - 1 := ⟨(inv_launched []).ring, rfl, rfl⟩

theorem witness_FifoLaw : (filled []).RingOk ∧ ringContents (filled []) = [0x0A, 0x0B] := ⟨ringOk_filled [], by decide⟩

/-- A tick of the stopped timer, a tick of the running one, and the edge and the compares its clauses speak of. -/
theorem witness_TickResult :
    urgent (launched []) = false ∧ (launched []).tmode = .stop ∧ urgent (openPort []) = false ∧ (openPort []).tmode = .cont
      ∧ ((openPort []).cap1 = true ∧ (openPort []).cm1 = .falling ∧ (openPort []).prev1 = true)
      ∧ ((calibratingBlock []).cm1 = .rising ∧ (calibratingBlock []).prev1 = false ∧ urgent (calibratingBlock []) = false)
      ∧ (7 + 1) % 2 ^ (openPort []).cfg.timerW = 8 ∧ urgent { openPort [] with cap1 := false, tar := 7, ccr1 := 8 } = false := by
  decide

/-- The shortest and the longest distance. -/
theorem witness_SchedulingLaw :
    ∃ s : State, s = { openPort [] with tar := 65535, cap1 := false } ∧ s.tmode = .cont ∧ s.tar < 2 ^ s.cfg.timerW
      ∧ ({ s with ccr0 := 0, ccr1 := 0 } : State).ccr0 = (s.tar + 1) % 2 ^ s.cfg.timerW
      ∧ ({ s with ccr0 := 65534, ccr1 := 65534 } : State).ccr1 = (s.tar + 65535) % 2 ^ s.cfg.timerW
      ∧ s.cap1 = false ∧ s.ifg0 = false ∧ s.ifg1 = false ∧ 65535 ≤ 2 ^ s.cfg.timerW - 1 :=
  ⟨_, rfl, rfl, by decide, rfl, rfl, rfl, rfl, rfl, by decide⟩

theorem witness_StepsOutsideTheTable :
    urgent (sending []) = true ∧ txhEnabled (openPort []) = false ∧ rxcaphEnabled (openPort []) = false
      ∧ rxsmphEnabled (openPort []) = false ∧ calhEnabled (openPort []) = false ∧ holdhEnabled (openPort []) = false
      ∧ (openPort []).hwait ≠ .shutdown ∧ (openPort []).hwait ≠ .cal ∧ (openPort []).hprog[(openPort []).hpc]? = none
      ∧ (openPort []).pstate ≠ .inactive ∧ (launched []).hprog[(launched []).hpc]? = none
      ∧ (launched []).pstate = .inactive ∧ (launched []).head = (launched []).tail
      ∧ ({ launched [] with gie := true } : State).gie = true := by decide

theorem witness_StorageWrittenAtHeadOnly :
    (∃ t, exec (.push 0x0C) (filled []) = .next t) ∧ Memory.wf (filled []).buf := ⟨⟨_, rfl⟩, (ringOk_filled []).bufWf⟩

theorem witness_ElementWriters :
    ∃ t, exec (.send 0x41) (openPort []) = .next t ∧ t.txsr ≠ (openPort []).txsr := ⟨_, rfl, by decide⟩

theorem witness_HostCounterAdvance : ∃ t, step (launched [0x2000]) = .next t ∧ t.hpc = 1 := ⟨_, rfl, rfl⟩

/-- One step for each edge of the life cycle. -/
theorem witness_PortLifecycle :
    (∃ t, (launched [0x2000]).Inv ∧ step (launched [0x2000]) = .next t ∧ t.pstate = .active)
      ∧ (∃ t, (openPort [0x3000]).Inv ∧ step (openPort [0x3000]) = .next t ∧ t.pstate = .holding)
      ∧ ∃ t, (holdingPort [0x3000]).Inv ∧ step (holdingPort [0x3000]) = .next t ∧ t.pstate = .inactive :=
  ⟨⟨_, inv_launched _, rfl, rfl⟩, ⟨_, inv_openPort _, rfl, rfl⟩, _, inv_holdingPort, rfl, rfl⟩

/-- Both handlers enabled, with each of the two RX handlers, and a running calibration. -/
theorem witness_HandlerOrder :
    (∃ a b, Moves .txh { sending [] with ifg1 := true } a ∧ Moves .rxcaph { sending [] with ifg1 := true } b)
      ∧ (∃ a b, Moves .txh { sending [] with ifg1 := true, cap1 := false } a
        ∧ Moves .rxsmph { sending [] with ifg1 := true, cap1 := false } b)
      ∧ (calibratingBlock [0x1000]).Inv ∧ (calibratingBlock [0x1000]).calState = .prime :=
  ⟨⟨_, _, ⟨rfl, rfl⟩, ⟨rfl, rfl⟩⟩, ⟨_, _, ⟨rfl, rfl⟩, ⟨rfl, rfl⟩⟩, inv_calibratingBlock, rfl⟩

/-- The first bit at its first tick, and the last stop bit at the last tick it is looked at. -/
theorem witness_TransmitWaveform :
    ∃ s : State, s = openPort [0x4055] ∧ s.Listening ∧ s.sched = [] ∧ s.rxdIn = true ∧ s.hwait = .none
      ∧ s.hprog[s.hpc]? = some (0x4000#16 ||| (0x55#8).setWidth 16) ∧ s.hprog.length = s.hpc + 1
      ∧ 0 ≤ 8 + s.cfg.stopBits ∧ 0 < s.cfg.tpb ∧ 9 ≤ 8 + s.cfg.stopBits ∧ 7 < s.cfg.tpb :=
  ⟨_, rfl, listening_openPort _, rfl, rfl, rfl, rfl, rfl, by decide, by decide, by decide, by decide⟩

theorem witness_ShutdownHold :
    ∃ s : State, s = openPort [0x3000] ∧ s.Listening ∧ s.sched = [] ∧ s.rxdIn = true ∧ s.hwait = .none
      ∧ s.hprog[s.hpc]? = some 0x3000#16 ∧ s.hprog.length = s.hpc + 1 ∧ 7 < s.cfg.tpb :=
  ⟨_, rfl, listening_openPort _, rfl, rfl, rfl, rfl, rfl, by decide⟩

theorem witness_ReceiveRoundTrip :
    ∃ s : State, s = openPort [] ∧ s.Inv ∧ s.fault = none ∧ s.pstate = .active ∧ s.gie = true ∧ s.cap1 = true
      ∧ s.prev1 = true ∧ urgent s = false ∧ ringFull s = false ∧ s.hpc = s.hprog.length :=
  ⟨_, rfl, inv_openPort [], rfl, rfl, rfl, rfl, rfl, rfl, by decide, rfl⟩

/-- A held SEND and a held SHUTDOWN. -/
theorem witness_MaskedFrameHangsTheHost :
    ∃ s : State, s = { sending [0x4041] with gie := false } ∧ s.fault = none ∧ s.hwait = .none ∧ s.pstate = .active
      ∧ s.txIe = true ∧ s.gie = false ∧ s.hprog[s.hpc]? = some 0x4041#16 ∧ decode 0x4041#16 = .ok (.send 0x41)
      ∧ ({ s with hprog := [0x3000] } : State).hprog[s.hpc]? = some 0x3000#16 ∧ decode 0x3000#16 = .ok .shutdown
      ∧ s.txd ≠ .lo
      ∧ s.Inv ∧ mayTake .tick s = true :=
  ⟨_, rfl, rfl, rfl, rfl, rfl, rfl, rfl, rfl, rfl, rfl, by decide, inv_stalled, by decide⟩

/-- A loop without a bound. -/
theorem witness_UnreachableTargetHangsTheHost :
    unboundedBlock.Inv ∧ unboundedBlock.fault = none ∧ unboundedBlock.calState = .prime
      ∧ unboundedBlock.cfg.calMaxIter = none := ⟨inv_unboundedBlock, rfl, rfl, rfl⟩

/-- A low input, and an input that is high and was seen high. -/
theorem witness_DeadReferenceHangsTheHost :
    (calibratingBlock [0x1000]).Inv ∧ (calibratingBlock [0x1000]).fault = none
      ∧ (calibratingBlock [0x1000]).calState = .prime ∧ (calibratingBlock [0x1000]).ifg1 = false
      ∧ ((calibratingBlock [0x1000]).refIn = true → (calibratingBlock [0x1000]).prev1 = true) :=
  ⟨inv_calibratingBlock, rfl, rfl, rfl, fun h => nomatch h⟩

/-- A frame in progress with GIE 0 and a host that is done. -/
theorem witness_MaskedReceiveIsNeverPushed :
    maskedReceive.Inv ∧ mayTake .tick maskedReceive = true ∧ maskedReceive.gie = false
      ∧ maskedReceive.pstate ≠ .inactive ∧ maskedReceive.cap1 = false := ⟨inv_maskedReceive, by decide, rfl, by decide, rfl⟩

/-- A step of EINT. -/
theorem witness_LateRunNeverHappens :
    ∃ t, (launched [0x9000]).Inv ∧ (launched [0x9000]).NoLateRun ∧ step (launched [0x9000]) = .next t
      ∧ (launched [0x9000]).gie = false ∧ t.gie = true :=
  ⟨_, inv_launched _, fun _ h => (show hostEnabled (launched [0x9000]) = false by
    rcases h with ⟨h, -⟩ | ⟨h, -⟩ <;> cases h), rfl, rfl, rfl⟩

/-- The run of a stopped timer whose input has been sampled: a tick at every instant. -/
def idleRun (n : Nat) : State := { launched [] with prev1 := true, now := n }

theorem witness_MachineRunsAreFair (n : Nat) : step (idleRun n) = .next (idleRun (n + 1)) := by
  rw [step, if_pos (show (idleRun n).cfg.legal = true from test_example_configuration_legal)]
  rfl

/-- A run that ends an idle hold, completes SHUTDOWN and then ticks. -/
def holdRun : Nat → State
  | 0 => holdingPort [0x3000]
  | 1 => release (holdingPort [0x3000])
  | n + 2 => { release (holdingPort [0x3000]) with hwait := .none, hpc := 1, now := n }

def holdTook : Nat → Option Choice
  | 0 => some .holdh
  | 1 => some .host
  | _ + 2 => some .tick

theorem isRun_holdRun : IsRun holdRun holdTook := fun n =>
  match n with
  | 0 => ⟨[], rfl, rfl⟩
  | 1 => ⟨[], rfl, rfl⟩
  | _ + 2 => ⟨[], rfl, rfl⟩

theorem fair_holdRun : WeaklyFair holdRun holdTook := by
  intro c hc n h
  have h2 : enabled c (holdRun (n + 2)) = true := h (n + 2) (Nat.le_add_right n 2)
  refine ⟨n + 2, Nat.le_add_right n 2, ?_⟩
  simp only [List.mem_cons, List.not_mem_nil, or_false] at hc
  rcases hc with rfl | rfl | rfl | rfl | rfl | rfl | rfl
  · rfl
  all_goals exact absurd h2 (by simp [holdRun, holdingPort, openPort, launched, State.launch, release, enabled,
    hostEnabled, hostWord, txhEnabled, holdhEnabled, rxcaphEnabled, rxsmphEnabled, calhEnabled])

/-- A fair run in which a handler is enabled at its first instant. -/
theorem witness_FairRunsAdvanceTime :
    IsRun holdRun holdTook ∧ WeaklyFair holdRun holdTook ∧ (∀ n, (holdRun n).fault = none) ∧ (holdRun 0).Inv
      ∧ Choice.holdh ∈ handlers ∧ enabled .holdh (holdRun 0) = true :=
  ⟨isRun_holdRun, fair_holdRun, fun n => match n with
    | 0 => rfl
    | 1 => rfl
    | _ + 2 => rfl, inv_holdingPort, by decide, rfl⟩

theorem witness_IdleStates :
    ((launched []).Inv ∧ (launched []).pstate = .inactive ∧ (launched []).calState ≠ .prime
        ∧ (launched []).calState ≠ .run)
      ∧ quiescent (launched []) = true ∧ enabled .tick (launched []) = true
      ∧ enabled (.env .rxd false) (launched []) = true :=
  ⟨⟨inv_launched [], rfl, by decide, by decide⟩, by decide, by decide, by decide⟩

end Sys2Proof.Tests
end

section
/-! Proofs about the scope of the model (00_scope.md): the legal configurations of R12, the steps that are refused, and
what the meanings answer where R110's table has no step. -/

namespace Sys2Proof.Machine

open Sys2Proof

/-! ### The conditions of R12 -/

/-- R9. -/
theorem Config.ringCapOk_iff (c : Config) :
    c.ringCapOk = true ↔ ∃ k, 1 ≤ k ∧ k ≤ 15 ∧ c.ringCap = 2 ^ k := by
  simp only [Config.ringCapOk, List.any_eq_true, List.mem_range, Bool.and_eq_true, decide_eq_true_eq, beq_iff_eq]
  constructor
  · rintro ⟨k, hk, h1, h2⟩
    exact ⟨k, h1, Nat.le_of_lt_succ hk, h2⟩
  · rintro ⟨k, h1, hk, h2⟩
    exact ⟨k, Nat.lt_succ_of_le hk, h1, h2⟩

/-- R12, the bound of the calibration loop. -/
theorem Config.calMaxIterOk_iff (c : Config) :
    c.calMaxIterOk = true ↔ ∀ n, c.calMaxIter = some n → 1 ≤ n := by
  unfold Config.calMaxIterOk
  cases c.calMaxIter <;> simp

/-! ### No meaning refuses -/

section

variable {r : Refusal}

theorem next_ne_refused {t : State} : (.next t : Out) ≠ .refused r := nofun

theorem ite_ne_refused {p : Prop} [Decidable p] {a b : Out} (ha : a ≠ .refused r)
    (hb : b ≠ .refused r) : (if p then a else b) ≠ .refused r := by
  split
  · exact ha
  · exact hb

/-- A meaning with an enabling condition: its body when enabled, held otherwise. -/
theorem guarded_ne_refused {p : Prop} [Decidable p] {o : Out} {s : State} (ho : o ≠ .refused r) :
    (if p then o else held s) ≠ .refused r := ite_ne_refused ho next_ne_refused

theorem raiseFault_ne_refused {code : FaultCode} {s : State} : raiseFault code s ≠ .refused r := by
  rcases raiseFault_cases code s with ⟨w, -, e⟩ | ⟨-, e⟩ <;> rw [e] <;> nofun

theorem pushByte_ne_refused {b : Byte} {s : State} {k : State → Out} (hk : ∀ t, k t ≠ .refused r) :
    pushByte b s k ≠ .refused r := by
  rcases pushByte_cases b s k with ⟨-, e⟩ | ⟨-, -, e⟩ | ⟨-, -, e⟩ <;> rw [e]
  · exact hk _
  · exact hk _
  · nofun

theorem takeByte_ne_refused {s : State} {k : Byte → State → Out} (hk : ∀ b t, k b t ≠ .refused r) :
    takeByte s k ≠ .refused r := by
  rcases takeByte_cases s k with ⟨b, -, -, e⟩ | ⟨-, -, e⟩ | ⟨-, e⟩ <;> rw [e]
  · exact hk _ _
  · nofun
  · nofun

end

/-- Every instruction has a meaning: `notModelled` is raised by none. -/
theorem exec_ne_refused (i : Instr) (s : State) (r : Refusal) : exec i s ≠ .refused r := by
  cases i with
  | calibrate => exact ite_ne_refused raiseFault_ne_refused (ite_ne_refused next_ne_refused next_ne_refused)
  | init => exact ite_ne_refused raiseFault_ne_refused (ite_ne_refused raiseFault_ne_refused next_ne_refused)
  | shutdown => exact ite_ne_refused raiseFault_ne_refused (ite_ne_refused next_ne_refused next_ne_refused)
  | send b => exact ite_ne_refused raiseFault_ne_refused (ite_ne_refused next_ne_refused next_ne_refused)
  | read => exact ite_ne_refused next_ne_refused (takeByte_ne_refused fun _ _ => next_ne_refused)
  | readUnchecked => exact ite_ne_refused raiseFault_ne_refused (takeByte_ne_refused fun _ _ => next_ne_refused)
  | push b => exact pushByte_ne_refused fun _ => next_ne_refused
  | rxsmph =>
    exact guarded_ne_refused (ite_ne_refused (pushByte_ne_refused fun _ => next_ne_refused) next_ne_refused)
  | tick => exact ite_ne_refused next_ne_refused next_ne_refused
  | env line v => cases line <;> exact next_ne_refused
  | txh | rxcaph | calh | holdh | shutdownComplete | calibrateComplete => exact guarded_ne_refused next_ne_refused
  | available | isEmpty | eint | dint | status | readTuning | shutdownStart => exact next_ne_refused

theorem hostStep_ne_refused (s : State) (r : Refusal) : hostStep s ≠ .refused r := by
  unfold hostStep
  cases s.hwait with
  | shutdown => exact exec_ne_refused _ _ _
  | cal => exact exec_ne_refused _ _ _
  | none =>
    cases hostWord s with
    | none => exact next_ne_refused
    | some w =>
      simp only [runCommand]
      cases decode w with
      | error e => exact raiseFault_ne_refused
      | ok i => exact exec_ne_refused _ _ _

theorem take_ne_refused (c : Choice) (s : State) (r : Refusal) : take c s ≠ .refused r := by
  unfold take
  cases c with
  | host => exact hostStep_ne_refused s r
  | tick | env | txh | holdh | rxcaph | rxsmph | calh => exact exec_ne_refused _ _ _

theorem runSchedule_ne_refused (s : State) (r : Refusal) : runSchedule s ≠ .refused r := by
  unfold runSchedule
  cases s.sched with
  | nil => exact take_ne_refused _ _ _
  | cons c cs => exact guarded_ne_refused (take_ne_refused _ _ _)

/-- R12: a legal configuration is never refused. -/
theorem step_ne_refused {s : State} (h : s.cfg.legal = true) (r : Refusal) : step s ≠ .refused r := by
  rw [step, if_pos h]
  cases s.fault with
  | some f => nofun
  | none => exact runSchedule_ne_refused s r

theorem step_of_illegal {s : State} (h : s.cfg.legal = false) : step s = .refused .illegalConfiguration := by
  simp [step, h]

/-- Settles O6: R12's conditions one by one, and no meaning refuses. -/
theorem legalConfigurations : Obligations.LegalConfigurations := by
  refine ⟨fun c => ?_, fun s => ⟨fun ⟨r, hr⟩ => ?_, fun h => ⟨_, step_of_illegal h⟩⟩⟩
  · rw [Config.legal_iff, Config.ringCapOk_iff, Config.calMaxIterOk_iff, and_assoc]
  · exact Bool.eq_false_iff.2 fun hl => step_ne_refused hl r hr

/-! ### Steps that are not enabled -/

/-- R218, spelled out. -/
theorem shutdownCompleteEnabled_iff (s : State) :
    shutdownCompleteEnabled s = true ↔ s.hwait = .shutdown ∧ s.pstate = .inactive ∧ urgent s = false := by
  simp [shutdownCompleteEnabled, and_assoc]

/-- R196, spelled out. -/
theorem calibrateCompleteEnabled_iff (s : State) :
    calibrateCompleteEnabled s = true
      ↔ s.hwait = .cal ∧ (s.calState = .done ∨ s.calState = .fail) ∧ urgent s = false := by
  simp [calibrateCompleteEnabled, and_assoc]

/-- A meaning with an enabling condition that does not hold changes nothing. -/
theorem guarded_held {g : Bool} {o : Out} {s : State} (h : g = false) :
    (if g = true then o else held s) = .next s := if_neg (Bool.eq_false_iff.1 h)

/-! ### When a command raises a fault of codes 2 to 7 (R240) -/

theorem execReadUnchecked_of_empty {s : State} (h : s.head = s.tail) :
    execReadUnchecked s = raiseFault .uncheckedReadEmpty s := if_pos (beq_iff_eq.2 h)

theorem execSend_of_not_active {s : State} (h : s.pstate ≠ .active) (b : Byte) :
    execSend b s = raiseFault .sendInactive s := if_pos h

theorem execInit_of_not_inactive {s : State} (h : s.pstate ≠ .inactive) :
    execInit s = raiseFault .initActive s := if_pos h

theorem execInit_of_gie {s : State} (hp : s.pstate = .inactive) (hg : s.gie = true) :
    execInit s = raiseFault .initWithGie s := by
  simp [execInit, hp, hg]

theorem execShutdown_of_inactive {s : State} (h : s.pstate = .inactive) :
    execShutdown s = raiseFault .shutdownInactive s := if_pos h

theorem execCalibrate_of_not_inactive {s : State} (h : s.pstate ≠ .inactive) :
    execCalibrate s = raiseFault .calibrateActive s := if_pos h

/-- R241 records HPROG[HPC], so without a word there the model stops. -/
theorem raiseFault_of_no_word {s : State} (h : s.hprog[s.hpc]? = none) (code : FaultCode) :
    raiseFault code s = .fault .noCommandWord := by
  simp [raiseFault, h]

/-- INIT's two faults, INIT_ACTIVE first (R245), in a state with no command word. -/
theorem execInit_of_no_word {s : State} (hw : s.hprog[s.hpc]? = none) (h : s.pstate ≠ .inactive ∨ s.gie = true) :
    execInit s = .fault .noCommandWord := by
  by_cases hp : s.pstate = .inactive
  · rw [execInit_of_gie hp (h.resolve_left (not_not_intro hp)), raiseFault_of_no_word hw]
  · rw [execInit_of_not_inactive hp, raiseFault_of_no_word hw]

/-- Settles O44: the guarded meanings are held, and the faulting commands have no word to record. -/
theorem stepsOutsideTheTable : Obligations.StepsOutsideTheTable := fun s =>
  ⟨fun hu => if_pos hu, guarded_held, guarded_held, guarded_held, guarded_held, guarded_held,
    fun h => guarded_held (Bool.eq_false_iff.2 (mt (shutdownCompleteEnabled_iff s).1 h)),
    fun h => guarded_held (Bool.eq_false_iff.2 (mt (calibrateCompleteEnabled_iff s).1 h)),
    fun hw =>
      ⟨fun h => (execReadUnchecked_of_empty h).trans (raiseFault_of_no_word hw _),
        fun h b => (execSend_of_not_active h b).trans (raiseFault_of_no_word hw _),
        fun h => execInit_of_no_word hw h,
        fun h => (execShutdown_of_inactive h).trans (raiseFault_of_no_word hw _),
        fun h => (execCalibrate_of_not_inactive h).trans (raiseFault_of_no_word hw _)⟩⟩

end Sys2Proof.Machine
end

section
/-! Proofs about the invariant (10_state.md R56): it holds at every legal launch (R270), each update of the state keeps
it where its rule makes the update, and so every step keeps it. -/

namespace Sys2Proof.Machine

open Sys2Proof

/-! ### The indices of the ring (R75, R130, R131) -/

section

variable {s : State}

theorem State.RingOk.ringCap_pos (h : s.RingOk) : 0 < s.cfg.ringCap := Nat.zero_lt_of_lt h.headRange

theorem State.RingOk.ringCount_eq (h : s.RingOk) :
    ringCount s = if s.tail ≤ s.head then s.head - s.tail else s.head + s.cfg.ringCap - s.tail :=
  subC_eq h.headRange h.tailRange

/-- R133: the count leaves one slot of the ring free. -/
theorem State.RingOk.ringCount_lt (h : s.RingOk) : ringCount s < s.cfg.ringCap := by
  have hh := h.headRange
  rw [h.ringCount_eq]
  split <;> omega

/-- The slot one past the logical range is the slot at HEAD. -/
theorem State.RingOk.addC_ringCount (h : s.RingOk) : addC s.cfg s.tail (ringCount s) = s.head := by
  have hh := h.headRange
  have ht := h.tailRange
  rw [addC_eq ht h.ringCount_lt, h.ringCount_eq]
  split_ifs <;> omega

/-- The slot at HEAD is outside the logical range. -/
theorem State.RingOk.addC_ne_head (h : s.RingOk) {k : Nat} (hk : k < ringCount s) : addC s.cfg s.tail k ≠ s.head := by
  have hc := h.ringCount_lt
  have ht := h.tailRange
  rw [← h.addC_ringCount, addC_eq ht hc, addC_eq ht (Nat.lt_trans hk hc)]
  split_ifs <;> omega

theorem ringFull_eq_false : ringFull s = false ↔ addC s.cfg s.head 1 ≠ s.tail := beq_eq_false_iff_ne

theorem ringEmpty_eq_false : ringEmpty s = false ↔ s.head ≠ s.tail := beq_eq_false_iff_ne

/-- R130: advancing HEAD where there is room counts one byte more. -/
theorem State.RingOk.subC_addC_head (h : s.RingOk) (hf : ringFull s = false) :
    subC s.cfg (addC s.cfg s.head 1) s.tail = ringCount s + 1 := by
  have hh := h.headRange
  have ht := h.tailRange
  have h2 := Config.two_le_ringCap h.legal
  have hne := ringFull_eq_false.1 hf
  rw [subC_eq (addC_lt h.ringCap_pos _ _) ht, h.ringCount_eq]
  rw [addC_eq hh (by omega)] at hne ⊢
  split_ifs at hne ⊢ <;> omega

/-- R131: advancing TAIL past a byte counts one byte less. -/
theorem State.RingOk.subC_addC_tail (h : s.RingOk) (he : ringEmpty s = false) :
    subC s.cfg s.head (addC s.cfg s.tail 1) + 1 = ringCount s := by
  have hh := h.headRange
  have ht := h.tailRange
  have h2 := Config.two_le_ringCap h.legal
  have hne := ringEmpty_eq_false.1 he
  rw [subC_eq hh (addC_lt h.ringCap_pos _ _), h.ringCount_eq, addC_eq ht (by omega)]
  split_ifs <;> omega

theorem addC_addC (c : Config) (a b d : Nat) : addC c (addC c a b) d = addC c a (b + d) := by
  simp [addC, Nat.add_assoc]

/-- R130: a push where there is room fills the slot at HEAD, which joins the logical range. -/
theorem State.RingOk.push (h : s.RingOk) (hf : ringFull s = false) (b : Byte) :
    ({ s with buf := Memory.write s.head b s.buf, head := addC s.cfg s.head 1 } : State).RingOk where
  legal := h.legal
  headRange := addC_lt h.ringCap_pos _ _
  tailRange := h.tailRange
  ringHolds k hk := by
    have hk' : k < ringCount s + 1 := h.subC_addC_head hf ▸ hk
    show (Memory.read (addC s.cfg s.tail k) (Memory.write s.head b s.buf)).isSome = true
    rcases Nat.lt_succ_iff_lt_or_eq.1 hk' with hlt | rfl
    · rw [Memory.read_write_other (h.addC_ne_head hlt)]
      exact h.ringHolds k hlt
    · rw [h.addC_ringCount, Memory.read_write_same]
      rfl
  bufWf := Memory.write_wf _ _ h.bufWf
  bufRange x hx := by
    rcases Memory.mem_write hx with rfl | hx
    · exact h.headRange
    · exact h.bufRange x hx

/-- R131, R132: taking a byte leaves the rest of the logical range. -/
theorem State.RingOk.take (h : s.RingOk) (he : ringEmpty s = false) :
    ({ s with tail := addC s.cfg s.tail 1 } : State).RingOk where
  legal := h.legal
  headRange := h.headRange
  tailRange := addC_lt h.ringCap_pos _ _
  ringHolds k hk := by
    have hk' : 1 + k < ringCount s := by
      rw [← h.subC_addC_tail he, Nat.add_comm]
      exact Nat.succ_lt_succ hk
    show (Memory.read (addC s.cfg (addC s.cfg s.tail 1) k) s.buf).isSome = true
    rw [addC_addC]
    exact h.ringHolds _ hk'
  bufWf := h.bufWf
  bufRange := h.bufRange

end

/-! ### The sample accumulator (R172) -/

theorem toNat_rxidx_succ {idx : BitVec 3} (h : idx ≠ 7) : (idx + 1).toNat = idx.toNat + 1 := by
  have : idx.toNat ≠ 7 := fun e => h (BitVec.eq_of_toNat_eq e)
  have := idx.isLt
  rw [BitVec.toNat_add]
  exact Nat.mod_eq_of_lt (by simp; omega)

/-- R172: a sample put at bit RXIDX leaves the bits above it 0. -/
theorem withSample_lt {acc : Byte} {idx : BitVec 3} (h : acc.toNat < 2 ^ idx.toNat) (v : Bool) :
    (withSample acc idx v).toNat < 2 ^ (idx.toNat + 1) := by
  have hacc : acc.toNat < 2 ^ (idx.toNat + 1) := Nat.lt_trans h (Nat.pow_lt_pow_succ Nat.one_lt_two)
  have hbit : v.toNat <<< idx.toNat < 2 ^ (idx.toNat + 1) := by
    rw [Nat.shiftLeft_eq, Nat.pow_succ, Nat.mul_comm]
    exact (Nat.mul_lt_mul_left (Nat.two_pow_pos _)).2 (Bool.toNat_lt v)
  rw [withSample, BitVec.toNat_or, BitVec.toNat_shiftLeft]
  refine Nat.or_lt_two_pow hacc (Nat.lt_of_le_of_lt (Nat.mod_le _ _) ?_)
  have hv : ((BitVec.ofBool v).setWidth 8).toNat = v.toNat := by cases v <;> rfl
  rwa [hv]

/-! ### The launch (R270) -/

/-- Settles O9: at launch every range is met by 0, the ring is empty, and nothing runs, drives or waits. -/
theorem launchMeetsInvariant : Obligations.LaunchMeetsInvariant := fun c _ _ _ hl =>
  have hcap : 0 < c.ringCap := Nat.zero_lt_of_lt (Config.two_le_ringCap hl)
  { ring := {
      legal := hl
      headRange := hcap
      tailRange := hcap
      ringHolds := fun k hk => absurd hk (by simp [ringCount, State.launch, subC])
      bufWf := List.Pairwise.nil
      bufRange := fun _ h => nomatch h }
    tarRange := Nat.two_pow_pos _
    ccr0Range := Nat.two_pow_pos _
    ccr1Range := Nat.two_pow_pos _
    lastCapRange := fun _ h => nomatch h
    accLow := Nat.zero_lt_one
    txBusy := fun h => nomatch h
    holding := fun h => nomatch h
    calibration := fun h => nomatch h
    captured := fun h => nomatch h
    portClosed := fun _ => ⟨rfl, rfl, rfl⟩
    portOpen := fun h => absurd rfl h
    timerIdle := fun _ _ => rfl
    hpcRange := Nat.zero_le _
    waiting := fun h => absurd rfl h
    waitsShutdown := fun h => nomatch h
    waitsCal := fun h => nomatch h
    faultWord := fun _ h => nomatch h }

/-! ### What the invariant excludes -/

section

variable {s : State}

/-- R56 (f): no calibration runs under an open port. -/
theorem State.Inv.calibrating_of_open (h : s.Inv) (hp : s.pstate ≠ .inactive) : calibrating s = false :=
  Bool.eq_false_iff.2 fun hc => hp (h.calibration hc).1

/-- R190: no calibration runs unless the host waits on it. -/
theorem State.Inv.calibrating_of_hwait (h : s.Inv) (hw : s.hwait ≠ .cal) : calibrating s = false :=
  Bool.eq_false_iff.2 fun hc => hw (h.calibration hc).2.1

/-- R46: a port that receives is open. -/
theorem State.Inv.open_of_rxIe (h : s.Inv) (hr : s.rxIe = true) : s.pstate ≠ .inactive := fun hp =>
  absurd hr (by simp [(h.portClosed hp).2.1])

end

/-! ### The named updates keep the invariant -/

section

variable {s : State}

theorem State.Inv.withSched (h : s.Inv) (l : List Choice) : (s.withSched l).Inv := { h with ring := { h.ring with } }

theorem State.Inv.log (h : s.Inv) (w : Word) : (s.log w).Inv := { h with ring := { h.ring with } }

theorem State.Inv.setGie (h : s.Inv) (v : Bool) : ({ s with gie := v } : State).Inv :=
  { h with ring := { h.ring with } }

theorem State.Inv.setRxdIn (h : s.Inv) (v : Bool) : ({ s with rxdIn := v } : State).Inv :=
  { h with ring := { h.ring with } }

theorem State.Inv.setRefIn (h : s.Inv) (v : Bool) : ({ s with refIn := v } : State).Inv :=
  { h with ring := { h.ring with } }

/-- R241: FAULT records the word at HPC. -/
theorem State.Inv.withFault (h : s.Inv) (code : FaultCode) {w : Word} (hw : s.hprog[s.hpc]? = some w) :
    (s.withFault ⟨code, w⟩).Inv :=
  { h with
    ring := { h.ring with }
    faultWord := fun _ hr => Option.some.inj hr ▸ hw }

/-- R219: a command completes while the host waits on nothing. -/
theorem State.Inv.advance (h : s.Inv) (hf : s.fault = none) (hw : s.hwait = .none) (hp : s.hpc < s.hprog.length) :
    s.advance.Inv :=
  { h with
    ring := { h.ring with }
    hpcRange := hp
    waiting := fun hn => absurd hw hn
    faultWord := fun _ hr => nomatch hf.symm.trans hr }

/-- R130: the internal step PUSH. -/
theorem State.Inv.push (h : s.Inv) (hf : ringFull s = false) (b : Byte) :
    ({ s with buf := Memory.write s.head b s.buf, head := addC s.cfg s.head 1 } : State).Inv :=
  { h with ring := h.ring.push hf b }

/-- R131, R132. -/
theorem State.Inv.take (h : s.Inv) (he : ringEmpty s = false) :
    ({ s with tail := addC s.cfg s.tail 1 } : State).Inv :=
  { h with ring := h.ring.take he }

/-- R111 to R114: a tick writes no register out of range and drives no line that is released. -/
theorem State.Inv.tickBody (h : s.Inv) : (tickBody s).Inv := by
  obtain ⟨tar, txd, ifg0, ccr1, scci1, ifg1, e, htar, htxd, hccr1⟩ := tickBody_frame s
  have ht : tar < 2 ^ s.cfg.timerW := by
    rcases htar with rfl | rfl
    · exact h.tarRange
    · exact addW_lt _ _ _
  have hc : ccr1 < 2 ^ s.cfg.timerW := by
    rcases hccr1 with rfl | rfl
    · exact h.ccr1Range
    · exact ht
  have hd : txd = .rel ↔ s.txd = .rel := by
    rcases htxd with rfl | ⟨rfl, hne⟩
    · exact Iff.rfl
    · exact ⟨nofun, fun hr => absurd hr hne⟩
  rw [e]
  exact { h with
    ring := { h.ring with }
    tarRange := ht
    ccr1Range := hc
    portClosed := fun hp => ⟨hd.2 (h.portClosed hp).1, (h.portClosed hp).2⟩
    portOpen := fun hp => ⟨mt hd.1 (h.portOpen hp).1, (h.portOpen hp).2⟩ }

/-- R150: SEND starts a frame, which is not 0, on an active port. -/
theorem State.Inv.startFrame (h : s.Inv) (hp : s.pstate = .active) (b : Byte) : (startFrame b s).Inv :=
  { h with
    ring := { h.ring with }
    ccr0Range := addW_lt _ _ _
    txBusy := fun _ => ⟨hp, frame_ne_zero _ _⟩
    holding := fun hh => nomatch hp.symm.trans hh
    portClosed := fun hi => nomatch hp.symm.trans hi
    portOpen := fun ho =>
      have ⟨htxd, hrx, hccis, hcm, htm, _⟩ := h.portOpen ho
      ⟨htxd, hrx, hccis, hcm, htm, rfl⟩ }

/-- R152: TXH clears TX_IE with the last bit. -/
theorem State.Inv.txShift (h : s.Inv) (he : txhEnabled s = true) : (txShift s).Inv := by
  have hie : s.txIe = true := by simp_all [txhEnabled]
  have hp := (h.txBusy hie).1
  exact { h with
    ring := { h.ring with }
    ccr0Range := addW_lt _ _ _
    txBusy := fun ht => ⟨hp, fun h0 => by simp [Machine.txShift, show s.txsr >>> 1 = 0 from h0] at ht⟩
    holding := fun hh => nomatch hp.symm.trans hh
    portClosed := fun hi => nomatch hp.symm.trans hi
    portOpen := fun ho => ⟨by simp only [Machine.txShift]; split <;> nofun, (h.portOpen ho).2⟩ }

/-- R171: an RX capture is taken on an open port, so not in a calibration. -/
theorem State.Inv.rxCapture (h : s.Inv) (he : rxcaphEnabled s = true) : (rxCapture s).Inv := by
  have hc : calibrating s = false := h.calibrating_of_open (h.open_of_rxIe (by simp_all [rxcaphEnabled]))
  exact { h with
    ring := { h.ring with }
    ccr1Range := addW_lt _ _ _
    accLow := Nat.zero_lt_one
    calibration := fun hcal => nomatch hc.symm.trans hcal }

theorem State.Inv.rxReschedule (h : s.Inv) : (rxReschedule s).Inv :=
  { h with
    ring := { h.ring with }
    ccr1Range := addW_lt _ _ _ }

/-- R172: a sample that does not end the frame. -/
theorem State.Inv.storeSample (h : s.Inv) (hi : s.rxidx ≠ 7) :
    ({ s with rxacc := withSample s.rxacc s.rxidx s.scci1, rxidx := s.rxidx + 1 } : State).Inv :=
  { h with
    ring := { h.ring with }
    accLow := toNat_rxidx_succ hi ▸ withSample_lt h.accLow _ }

/-- R173: the end of a frame, which sets CAP1, as a calibration needs it too. -/
theorem State.Inv.backToCapture (h : s.Inv) : (backToCapture s).Inv :=
  { h with
    ring := { h.ring with }
    accLow := Nat.zero_lt_one
    calibration := fun hc =>
      have ⟨hp, hw, hccis, hrx, _, hcm, htm⟩ := h.calibration hc
      ⟨hp, hw, hccis, hrx, rfl, hcm, htm⟩ }

/-- R190: CALIBRATE sets channel 1 and the timer up, and the host waits on a word of its program. -/
theorem State.Inv.startCalibration (h : s.Inv) (hp : s.pstate = .inactive) (hw : s.hpc < s.hprog.length) :
    (startCalibration s).Inv :=
  { h with
    ring := { h.ring with }
    lastCapRange := fun _ hl => nomatch hl
    holding := fun hh => nomatch hp.symm.trans hh
    calibration := fun _ => ⟨hp, rfl, rfl, rfl, rfl, rfl, rfl⟩
    captured := fun hc => nomatch hc
    portClosed := fun hi =>
      have ⟨htxd, _, hout⟩ := h.portClosed hi
      ⟨htxd, rfl, hout⟩
    portOpen := fun ho => absurd hp ho
    timerIdle := fun _ hc => nomatch hc
    waiting := fun _ => hw
    waitsShutdown := fun hs => nomatch hs
    waitsCal := fun _ => ⟨hp, .inl rfl⟩ }

/-- R190: the preset is loaded while no calibration runs. -/
theorem State.Inv.loadPreset (h : s.Inv) (hw : s.hwait = .none) : (loadPreset s).Inv :=
  { h with
    ring := { h.ring with }
    calibration := fun hc => nomatch hc
    captured := fun hc => nomatch hc
    timerIdle := fun hp _ => h.timerIdle hp (h.calibrating_of_hwait (hw ▸ nofun))
    waitsCal := fun hc => nomatch hw.symm.trans hc }

/-- R191: the priming capture. -/
theorem State.Inv.primeCapture (h : s.Inv) (hc : calibrating s = true) :
    ({ s with ifg1 := false, lastCap := some s.ccr1, calState := .run } : State).Inv :=
  have hs := h.calibration hc
  { h with
    ring := { h.ring with }
    lastCapRange := fun _ hl => Option.some.inj hl ▸ h.ccr1Range
    calibration := fun _ => hs
    captured := fun _ => rfl
    timerIdle := fun _ hn => nomatch hn
    waitsCal := fun _ => ⟨hs.1, .inl rfl⟩ }

/-- R191: what a measurement writes, whether or not the loop goes on. -/
theorem State.Inv.measurement (h : s.Inv) (hi : BitVec 4) (lo : BitVec 8) (iter free : Nat) :
    ({ s with
      ifg1 := false, lastCap := some s.ccr1, freeCount := free, tuneHi := hi, tuneLo := lo,
      calIter := iter } : State).Inv :=
  { h with
    ring := { h.ring with }
    lastCapRange := fun _ hl => Option.some.inj hl ▸ h.ccr1Range
    captured := fun _ => rfl }

/-- R194: the end of the loop frees channel 1 and stops the timer, and the host still waits. -/
theorem State.Inv.calFinish (h : s.Inv) (hc : calibrating s = true) {st : CalState} (hst : st = .done ∨ st = .fail) :
    (calFinish st s).Inv := by
  have hp := (h.calibration hc).1
  have hcal : calibrating (Machine.calFinish st s) = false := by rcases hst with rfl | rfl <;> rfl
  exact { h with
    ring := { h.ring with }
    calibration := fun hn => nomatch hcal.symm.trans hn
    captured := fun hr => by rcases hst with rfl | rfl <;> nomatch hr
    portClosed := fun hi =>
      have ⟨htxd, _, hout⟩ := h.portClosed hi
      ⟨htxd, rfl, hout⟩
    portOpen := fun ho => absurd hp ho
    timerIdle := fun _ _ => rfl
    waitsCal := fun _ => ⟨hp, .inr hst⟩ }

/-- R191. -/
theorem State.Inv.calCapture (h : s.Inv) (he : calhEnabled s = true) : (calCapture s).Inv := by
  have hc : calibrating s = true := ((Bool.and_eq_true _ _).mp he).2
  rcases calCapture_cases s with ⟨-, e⟩ | ⟨-, hi, lo, n, e⟩ | ⟨-, hi, lo, n, st, hst, e⟩ <;> rw [e]
  · exact h.primeCapture hc
  · exact h.measurement hi lo n _
  · exact (h.measurement hi lo n _).calFinish hc hst

/-- R210: INIT opens the port while the host waits on nothing. -/
theorem State.Inv.activate (h : s.Inv) (hw : s.hwait = .none) : (activate s).Inv :=
  have hc := h.calibrating_of_hwait (hw ▸ nofun)
  { h with
    ring := { h.ring with }
    accLow := Nat.zero_lt_one
    txBusy := fun ht => nomatch ht
    holding := fun hh => nomatch hh
    calibration := fun hcal => nomatch hc.symm.trans hcal
    portClosed := fun hi => nomatch hi
    portOpen := fun _ => ⟨nofun, rfl, rfl, rfl, rfl, rfl⟩
    timerIdle := fun hi => nomatch hi
    waitsShutdown := fun hs => nomatch hw.symm.trans hs
    waitsCal := fun hcal => nomatch hw.symm.trans hcal }

/-- R212: the idle hold begins once no frame is in flight, and the host waits on a word of its program. -/
theorem State.Inv.startHold (h : s.Inv) (hp : s.pstate ≠ .inactive) (ht : s.txIe = false)
    (hw : s.hpc < s.hprog.length) : (startHold s).Inv :=
  have hc := h.calibrating_of_open hp
  { h with
    ring := { h.ring with }
    ccr0Range := addW_lt _ _ _
    txBusy := fun hb => nomatch ht.symm.trans hb
    holding := fun _ => ⟨ht, rfl⟩
    calibration := fun hcal => nomatch hc.symm.trans hcal
    portClosed := fun hi => nomatch hi
    portOpen := fun _ => ⟨nofun, (h.portOpen hp).2⟩
    timerIdle := fun hi => nomatch hi
    waiting := fun _ => hw
    waitsShutdown := fun _ => nofun
    waitsCal := fun hcal => nomatch hcal }

/-- R213: the end of the hold closes the port and stops the timer, and the host still waits on SHUTDOWN. -/
theorem State.Inv.release (h : s.Inv) (he : holdhEnabled s = true) : (release s).Inv := by
  have hp : s.pstate = .holding := by simp_all [holdhEnabled]
  have hc := h.calibrating_of_open (hp ▸ nofun)
  obtain ⟨ht, hw⟩ := h.holding hp
  exact { h with
    ring := { h.ring with }
    accLow := Nat.zero_lt_one
    txBusy := fun hb => nomatch ht.symm.trans hb
    holding := fun hh => nomatch hh
    calibration := fun hcal => nomatch hc.symm.trans hcal
    portClosed := fun _ => ⟨rfl, rfl, rfl⟩
    portOpen := fun ho => absurd rfl ho
    timerIdle := fun _ _ => rfl
    waitsShutdown := fun _ => nofun
    waitsCal := fun hcal => nomatch hw.symm.trans hcal }

/-- R196, R218: the host's wait ends once what it waits for is over: the port is closed and no calibration runs. -/
theorem State.Inv.endWait (h : s.Inv) (hp : s.pstate = .inactive) (hc : calibrating s = false) :
    ({ s with hwait := .none } : State).Inv :=
  { h with
    ring := { h.ring with }
    holding := fun hh => nomatch hp.symm.trans hh
    calibration := fun hcal => nomatch hc.symm.trans hcal
    waiting := fun hn => absurd rfl hn
    waitsShutdown := fun hs => nomatch hs
    waitsCal := fun hs => nomatch hs }

/-- R218. -/
theorem State.Inv.shutdownComplete (h : s.Inv) (hf : s.fault = none) (he : shutdownCompleteEnabled s = true) :
    ({ s with hwait := .none } : State).advance.Inv := by
  obtain ⟨hw, hp, -⟩ := (shutdownCompleteEnabled_iff s).1 he
  exact (h.endWait hp (h.calibrating_of_hwait (hw ▸ nofun))).advance hf rfl (h.waiting (hw ▸ nofun))

/-- R196. -/
theorem State.Inv.calibrateComplete (h : s.Inv) (hf : s.fault = none) (he : calibrateCompleteEnabled s = true) :
    ({ s.log (calResult s) with hwait := .none } : State).advance.Inv := by
  obtain ⟨hw, hst, -⟩ := (calibrateCompleteEnabled_iff s).1 he
  have hc : calibrating s = false := by rcases hst with e | e <;> simp [calibrating, e]
  exact ((h.log _).endWait (h.waitsCal hw).1 hc).advance hf rfl (h.waiting (hw ▸ nofun))

end

/-! ### The instructions and the steps keep the invariant -/

theorem plainCommand_wellFormed {op : BitVec 4} {i : Instr} (h : plainCommand op = some i) : i.WellFormed = true := by
  unfold plainCommand at h
  split at h <;> cases h <;> rfl

/-- R91, R99: only a command has a word. -/
theorem decode_wellFormed {w : Word} {i : Instr} (h : decode w = .ok i) : i.WellFormed = true := by
  unfold decode at h
  split at h
  · cases h
  · split at h
    · cases h
      rfl
    · cases hc : plainCommand (opField w) with
      | none => simp [hc] at h
      | some j =>
        have hj := plainCommand_wellFormed hc
        simp only [hc] at h
        split at h
        · cases h
        · cases h
          exact hj

/-- A command runs while the host waits on nothing and has a word at HPC (R118). SHUTDOWN_START is left out: it is a part
of SHUTDOWN, which tests its conditions (R211, R212). -/
theorem exec_keeps_inv {i : Instr} {s t : State} (h : s.Inv) (hf : s.fault = none) (he : exec i s = .next t)
    (hi : i ≠ .shutdownStart) (hc : i.WellFormed = true → s.hwait = .none ∧ s.hpc < s.hprog.length) : t.Inv := by
  cases i with
  | tick =>
    rcases execTick_next he with ⟨-, rfl⟩ | ⟨-, rfl⟩
    · exact h
    · exact h.tickBody
  | env line v =>
    rcases execEnv_next he with ⟨-, rfl⟩ | ⟨-, rfl⟩
    · exact h.setRxdIn v
    · exact h.setRefIn v
  | push b =>
    rcases execPush_next he with ⟨-, rfl⟩ | ⟨hr, -, rfl⟩
    · exact h
    · exact h.push hr b
  | txh =>
    rcases execTxh_next he with ⟨hen, rfl⟩ | ⟨-, rfl⟩
    · exact h.txShift hen
    · exact h
  | rxcaph =>
    rcases execRxcaph_next he with ⟨hen, rfl⟩ | ⟨-, rfl⟩
    · exact h.rxCapture hen
    · exact h
  | rxsmph =>
    rcases execRxsmph_next he with ⟨-, rfl⟩ | ⟨-, hidx, rfl⟩ | ⟨-, -, -, rfl⟩ | ⟨-, -, hr, -, rfl⟩
    · exact h
    · exact h.rxReschedule.storeSample hidx
    · exact h.rxReschedule.backToCapture
    · exact (h.rxReschedule.push hr _).backToCapture
  | calh =>
    rcases execCalh_next he with ⟨hen, rfl⟩ | ⟨-, rfl⟩
    · exact h.calCapture hen
    · exact h
  | holdh =>
    rcases execHoldh_next he with ⟨hen, rfl⟩ | ⟨-, rfl⟩
    · exact h.release hen
    · exact h
  | shutdownStart => exact absurd rfl hi
  | shutdownComplete =>
    rcases execShutdownComplete_next he with ⟨hen, rfl⟩ | ⟨-, rfl⟩
    · exact h.shutdownComplete hf hen
    · exact h
  | calibrateComplete =>
    rcases execCalibrateComplete_next he with ⟨hen, rfl⟩ | ⟨-, rfl⟩
    · exact h.calibrateComplete hf hen
    · exact h
  | calibrate =>
    obtain ⟨hw, hp⟩ := hc rfl
    rcases execCalibrate_next he with ⟨-, w, hword, rfl⟩ | ⟨hin, -, rfl⟩ | ⟨-, -, rfl⟩
    · exact h.withFault _ hword
    · exact h.startCalibration hin hp
    · exact ((h.loadPreset hw).log _).advance hf hw hp
  | init =>
    obtain ⟨hw, hp⟩ := hc rfl
    rcases execInit_next he with ⟨-, w, hword, rfl⟩ | ⟨-, -, w, hword, rfl⟩ | ⟨-, -, rfl⟩
    · exact h.withFault _ hword
    · exact h.withFault _ hword
    · exact (h.activate hw).advance hf hw hp
  | shutdown =>
    obtain ⟨-, hp⟩ := hc rfl
    rcases execShutdown_next he with ⟨-, w, hword, rfl⟩ | ⟨-, -, rfl⟩ | ⟨hopen, ht, rfl⟩
    · exact h.withFault _ hword
    · exact h
    · exact h.startHold hopen ht hp
  | send b =>
    obtain ⟨hw, hp⟩ := hc rfl
    rcases execSend_next he with ⟨-, w, hword, rfl⟩ | ⟨-, -, rfl⟩ | ⟨hact, -, rfl⟩
    · exact h.withFault _ hword
    · exact h
    · exact (h.startFrame hact b).advance hf hw hp
  | read =>
    obtain ⟨hw, hp⟩ := hc rfl
    rcases execRead_next he with ⟨-, rfl⟩ | ⟨hne, b, -, -, rfl⟩
    · exact (h.log _).advance hf hw hp
    · exact ((h.take hne).log _).advance hf hw hp
  | readUnchecked =>
    obtain ⟨hw, hp⟩ := hc rfl
    rcases execReadUnchecked_next he with ⟨-, w, hword, rfl⟩ | ⟨hne, b, -, -, rfl⟩
    · exact h.withFault _ hword
    · exact ((h.take hne).log _).advance hf hw hp
  | available | isEmpty | status | readTuning =>
    obtain ⟨hw, hp⟩ := hc rfl
    cases he
    exact (h.log _).advance hf hw hp
  | eint | dint =>
    obtain ⟨hw, hp⟩ := hc rfl
    cases he
    exact (h.setGie _).advance hf hw hp

theorem lt_length_of_getElem? {s : State} {w : Word} (h : s.hprog[s.hpc]? = some w) : s.hpc < s.hprog.length :=
  (List.getElem?_eq_some_iff.1 h).1

/-- R118, R220: the host's step. -/
theorem hostStep_keeps_inv {s t : State} (h : s.Inv) (hf : s.fault = none) (hen : hostEnabled s = true)
    (hs : hostStep s = .next t) : t.Inv := by
  obtain ⟨-, w, hword, ⟨-, -, -, rfl⟩ | ⟨hw, -, i, hd, he⟩ | ⟨-, -, he⟩ | ⟨-, -, he⟩⟩ := hostStep_cases hen hs
  · exact h.withFault _ hword
  · have hi : i ≠ .shutdownStart := fun e => nomatch e ▸ decode_wellFormed hd
    exact exec_keeps_inv h hf he hi fun _ => ⟨hw, lt_length_of_getElem? hword⟩
  · exact exec_keeps_inv h hf he nofun nofun
  · exact exec_keeps_inv h hf he nofun nofun

/-- R110: every enabled step of the relation. -/
theorem moves_keeps_inv {c : Choice} {s t : State} (h : s.Inv) (hm : Moves c s t) : t.Inv := by
  obtain ⟨hen, ht⟩ := hm
  obtain ⟨hfault, hc⟩ := (Bool.and_eq_true _ _).mp hen
  have hf : s.fault = none := Option.isNone_iff_eq_none.1 hfault
  cases c with
  | host => exact hostStep_keeps_inv h hf hc ht
  | tick | env | txh | holdh | rxcaph | rxsmph | calh =>
    simp only [Machine.take] at ht
    exact exec_keeps_inv h hf ht nofun nofun

/-- Settles O10: a step is a move of R110's relation, or consumes an entry of the schedule. -/
theorem stepKeepsInvariant : Obligations.StepKeepsInvariant := by
  intro s t h hs
  have h' : (s.withSched s.sched.tail).Inv := h.withSched _
  rcases step_chosen hs with ⟨c, -, hm, ht⟩ | ⟨-, rfl⟩
  · have hen : enabled c s = true := ((mayTake_iff c s).1 hm).1
    exact moves_keeps_inv h' ⟨(enabled_withSched c s _).trans hen, ht⟩
  · exact h'

end Sys2Proof.Machine
end

section
/-! Proofs about the control registers (10_state.md R55): each field at its bit position, and the values at launch. -/

namespace Sys2Proof.Machine

open Sys2Proof

/-! ### Fields at bit positions -/

/-- A field above the bits in use. -/
theorem testBit_add_mul_two_pow {x k : Nat} (hx : x < 2 ^ k) (y j : Nat) :
    (x + y * 2 ^ k).testBit j = if j < k then x.testBit j else y.testBit (j - k) := by
  rw [Nat.add_comm, Nat.mul_comm]
  exact Nat.testBit_two_pow_mul_add y hx j

theorem testBit_bitAt_zero (v : Bool) (j : Nat) : (bitAt v 0).testBit j = if j = 0 then v else false := by
  rw [bitAt, Nat.pow_zero, Nat.mul_one, Nat.testBit_bool_toNat]
  by_cases h : j = 0 <;> simp [h]

/-- A field of one bit above the bits in use. -/
theorem testBit_add_bitAt {x k : Nat} (hx : x < 2 ^ k) (v : Bool) (j : Nat) :
    (x + bitAt v k).testBit j = if j = k then v else x.testBit j := by
  rw [bitAt, testBit_add_mul_two_pow hx, Nat.testBit_bool_toNat]
  rcases Nat.lt_trichotomy j k with h | rfl | h
  · simp [h, Nat.ne_of_lt h]
  · simp
  · have hj : x.testBit j = false :=
      Nat.testBit_lt_two_pow (Nat.lt_trans hx (Nat.pow_lt_pow_right Nat.one_lt_two h))
    simp [Nat.not_lt_of_gt h, Nat.ne_of_gt h, Nat.sub_ne_zero_of_lt h, hj]

theorem bitAt_zero_lt (v : Bool) {m : Nat} (hm : 0 < m) : bitAt v 0 < 2 ^ m := by
  have h1 : bitAt v 0 ≤ 1 := by cases v <;> decide
  exact Nat.lt_of_le_of_lt h1 (Nat.one_lt_two_pow (Nat.ne_of_gt hm))

theorem add_bitAt_lt {x k m : Nat} (hx : x < 2 ^ k) (v : Bool) (hm : k < m) : x + bitAt v k < 2 ^ m := by
  have hle : bitAt v k ≤ 2 ^ k := by cases v <;> simp [bitAt]
  calc x + bitAt v k < 2 ^ (k + 1) := by omega
    _ ≤ 2 ^ m := Nat.pow_le_pow_right Nat.two_pos hm

/-- Two fields in one register, the second from bit `k` on. -/
theorem testBit_two_fields {n m k : Nat} (hn : n ≤ k) (x : BitVec n) (y : BitVec m) (j : Nat) :
    (x.toNat + y.toNat * 2 ^ k).testBit j = if j < k then x.getLsbD j else y.getLsbD (j - k) :=
  testBit_add_mul_two_pow (Nat.lt_of_lt_of_le x.isLt (Nat.pow_le_pow_right Nat.two_pos hn)) y.toNat j

theorem two_fields_lt {n m k : Nat} (hn : n ≤ k) (x : BitVec n) (y : BitVec m) :
    x.toNat + y.toNat * 2 ^ k < 2 ^ (k + m) := by
  have hx : x.toNat < 2 ^ k := Nat.lt_of_lt_of_le x.isLt (Nat.pow_le_pow_right Nat.two_pos hn)
  calc x.toNat + y.toNat * 2 ^ k < (y.toNat + 1) * 2 ^ k := by rw [Nat.add_mul]; omega
    _ ≤ 2 ^ m * 2 ^ k := Nat.mul_le_mul_right _ y.isLt
    _ = 2 ^ (k + m) := by rw [Nat.pow_add, Nat.mul_comm]

/-! ### The registers of more than one field -/

/-- R55: CCTL0 has the bits IFG0, TX_IE and OUTMOD0, and no other. -/
theorem cctl0_testBit (s : State) : ∃ v, controlRegister 2 s = some v ∧
    ∀ j, v.testBit j = if j = 5 then s.outmod0 == .set else if j = 4 then s.txIe else if j = 0 then s.ifg0 else false := by
  have h0 : bitAt s.ifg0 0 < 2 ^ 4 := bitAt_zero_lt _ (by decide)
  have h4 : bitAt s.ifg0 0 + bitAt s.txIe 4 < 2 ^ 5 := add_bitAt_lt h0 _ (by decide)
  have hout : outmodBits s.outmod0 * 2 ^ 5 = bitAt (s.outmod0 == .set) 5 := by cases s.outmod0 <;> rfl
  refine ⟨_, rfl, fun j => ?_⟩
  rw [hout, testBit_add_bitAt h4, testBit_add_bitAt h0, testBit_bitAt_zero]

/-- R55: CCTL1 has the bits IFG1, SCCI1, RX_IE, CAP1, CCIS1 and CM1, and no other. -/
theorem cctl1_testBit (s : State) : ∃ v, controlRegister 4 s = some v ∧
    ∀ j, v.testBit j = if j = 14 then s.cm1 == .rising else if j = 12 then s.ccis1 == .ref else if j = 8 then s.cap1
      else if j = 4 then s.rxIe else if j = 3 then s.scci1 else if j = 0 then s.ifg1 else false := by
  have h0 : bitAt s.ifg1 0 < 2 ^ 3 := bitAt_zero_lt _ (by decide)
  have h3 := add_bitAt_lt h0 s.scci1 (by decide : 3 < 4)
  have h4 := add_bitAt_lt h3 s.rxIe (by decide : 4 < 8)
  have h8 := add_bitAt_lt h4 s.cap1 (by decide : 8 < 12)
  have h12 := add_bitAt_lt h8 (s.ccis1 == .ref) (by decide : 12 < 14)
  refine ⟨_, rfl, fun j => ?_⟩
  rw [testBit_add_bitAt h12, testBit_add_bitAt h8, testBit_add_bitAt h4, testBit_add_bitAt h3, testBit_add_bitAt h0,
    testBit_bitAt_zero]

theorem pstateBits_inj {p q : PState} : pstateBits p = pstateBits q ↔ p = q := by
  cases p <;> cases q <;> decide

theorem txdBits_inj {l m : TxLine} : txdBits l = txdBits m ↔ l = m := by
  cases l <;> cases m <;> decide

/-- R55: PORT has PSTATE in its bits 1:0, TXD in its bits 3:2 and GIE as bit 4. -/
theorem port_fields (s : State) : ∃ v, controlRegister 12 s = some v
    ∧ v % 4 = pstateBits s.pstate ∧ v / 4 % 4 = txdBits s.txd ∧ v.testBit 4 = s.gie ∧ v < 2 ^ 5 := by
  have hp : pstateBits s.pstate < 4 := by cases s.pstate <;> decide
  have ht : txdBits s.txd < 4 := by cases s.txd <;> decide
  have hx : pstateBits s.pstate + txdBits s.txd * 2 ^ 2 < 2 ^ 4 := by omega
  refine ⟨_, rfl, ?_, ?_, ?_, add_bitAt_lt hx _ (by decide)⟩
  · rw [bitAt]; omega
  · rw [bitAt]; omega
  · rw [testBit_add_bitAt hx, if_pos rfl]

/-- Settles O8: each register's value has its fields at their bits, as `testBit_add_bitAt` and `testBit_two_fields` give
them, and at launch every field but the tuning and the reference divider is 0. -/
theorem controlRegisters : Obligations.ControlRegisters := by
  refine ⟨fun s => ⟨?tctl, rfl, ?cctl0, rfl, ?cctl1, rfl, rfl, ?rxst, rfl, rfl, ?tune, ?ref, ?port, ?others⟩,
    fun c p r f => ⟨_, rfl, ?launch, ?launchTune, ?launchRef⟩⟩
  case tctl =>
    refine ⟨_, rfl, ?_, bitAt_zero_lt _ Nat.one_pos⟩
    rw [testBit_bitAt_zero, if_pos rfl, tmodeBit, beq_iff_eq]
  case cctl0 =>
    obtain ⟨v, hv, hb⟩ := cctl0_testBit s
    refine ⟨v, hv, by simp [hb], by simp [hb], by simp [hb], by simp [hb], fun j h0 h4 h5 => ?_⟩
    rw [hb, if_neg h5, if_neg h4, if_neg h0]
  case cctl1 =>
    obtain ⟨v, hv, hb⟩ := cctl1_testBit s
    refine ⟨v, hv, by simp [hb], by simp [hb], by simp [hb], by simp [hb], by simp [hb], by simp [hb],
      fun j h0 h3 h4 h8 h12 h14 => ?_⟩
    rw [hb, if_neg h14, if_neg h12, if_neg h8, if_neg h4, if_neg h3, if_neg h0]
  case rxst =>
    have hb := testBit_two_fields (by decide : 3 ≤ 8) s.rxidx s.rxacc
    refine ⟨_, rfl, fun j hj => ?_, fun j h3 h8 => ?_, fun j _ => ?_, two_fields_lt (by decide) _ _⟩
    · rw [hb, if_pos (by omega)]
    · rw [hb, if_pos h8, BitVec.getLsbD_of_ge _ _ h3]
    · rw [hb, if_neg (by omega), Nat.add_sub_cancel_left]
  case tune =>
    have hb := testBit_two_fields (Nat.le_refl 8) s.tuneLo s.tuneHi
    refine ⟨_, rfl, fun j hj => ?_, fun j _ => ?_, two_fields_lt (Nat.le_refl 8) _ _⟩
    · rw [hb, if_pos hj]
    · rw [hb, if_neg (by omega), Nat.add_sub_cancel_left]
  case ref =>
    have hb := testBit_two_fields (Nat.le_refl 2) s.refdiv s.savedRefdiv
    refine ⟨_, rfl, fun j hj => ?_, fun j _ => ?_, two_fields_lt (Nat.le_refl 2) _ _⟩
    · rw [hb, if_pos hj]
    · rw [hb, if_neg (by omega), Nat.add_sub_cancel_left]
  case port =>
    obtain ⟨v, hv, hp, ht, hg, hlt⟩ := port_fields s
    refine ⟨v, hv, ?_⟩
    rw [hp, ht]
    exact ⟨pstateBits_inj (q := .inactive), pstateBits_inj (q := .active), pstateBits_inj (q := .holding),
      txdBits_inj (m := .rel), txdBits_inj (m := .lo), txdBits_inj (m := .hi), hg, hlt⟩
  case others =>
    intro n hn
    obtain ⟨k, rfl⟩ := Nat.exists_eq_add_of_le' hn
    rfl
  case launch =>
    intro n hn h10 h11
    rcases (by omega : n = 12 ∨ n ≤ 9) with rfl | h9
    · rfl
    · interval_cases n <;> simp [controlRegister, State.launch, bitAt, tmodeBit, outmodBits]
  case launchTune => exact congrArg some (Nat.add_comm _ _)
  case launchRef => rfl

end Sys2Proof.Machine
end

section
/-! Proofs about who writes which element of the state (10_state.md R31 to R53, 20_memory.md R78). -/

namespace Sys2Proof.Machine

open Sys2Proof

/-- Settles O46, instruction by instruction: what each writes is in its inversion lemma. -/
theorem elementWriters : Obligations.ElementWriters := by
  intro i s t h
  cases i with
  | tick =>
    rcases execTick_next h with ⟨-, rfl⟩ | ⟨-, rfl⟩
    · simp
    · obtain ⟨_, _, _, _, _, _, e, -⟩ := tickBody_frame s
      simp [e]
  | env line v => rcases execEnv_next h with ⟨rfl, rfl⟩ | ⟨rfl, rfl⟩ <;> simp
  | push b => rcases execPush_next h with ⟨-, rfl⟩ | ⟨-, -, rfl⟩ <;> simp
  | txh => rcases execTxh_next h with ⟨-, rfl⟩ | ⟨-, rfl⟩ <;> simp [txShift]
  | rxcaph => rcases execRxcaph_next h with ⟨-, rfl⟩ | ⟨-, rfl⟩ <;> simp [rxCapture]
  | rxsmph =>
    rcases execRxsmph_next h with ⟨-, rfl⟩ | ⟨-, -, rfl⟩ | ⟨-, -, -, rfl⟩ | ⟨-, -, -, -, rfl⟩ <;>
      simp [rxReschedule, backToCapture]
  | calh =>
    rcases execCalh_next h with ⟨-, rfl⟩ | ⟨-, rfl⟩
    · rcases calCapture_cases s with ⟨-, e⟩ | ⟨-, _, _, _, e⟩ | ⟨-, _, _, _, _, -, e⟩ <;> simp [e, calFinish]
    · simp
  | holdh => rcases execHoldh_next h with ⟨-, rfl⟩ | ⟨-, rfl⟩ <;> simp [release]
  | shutdownStart =>
    cases h
    simp [startHold]
  | shutdownComplete => rcases execShutdownComplete_next h with ⟨-, rfl⟩ | ⟨-, rfl⟩ <;> simp
  | calibrateComplete => rcases execCalibrateComplete_next h with ⟨-, rfl⟩ | ⟨-, rfl⟩ <;> simp
  | calibrate =>
    rcases execCalibrate_next h with ⟨-, _, -, rfl⟩ | ⟨-, -, rfl⟩ | ⟨-, -, rfl⟩ <;> simp [startCalibration, loadPreset]
  | init =>
    rcases execInit_next h with ⟨-, _, -, rfl⟩ | ⟨-, -, _, -, rfl⟩ | ⟨-, -, rfl⟩ <;> simp [activate]
  | shutdown => rcases execShutdown_next h with ⟨-, _, -, rfl⟩ | ⟨-, -, rfl⟩ | ⟨-, -, rfl⟩ <;> simp [startHold]
  | send b => rcases execSend_next h with ⟨-, _, -, rfl⟩ | ⟨-, -, rfl⟩ | ⟨-, -, rfl⟩ <;> simp [startFrame]
  | read => rcases execRead_next h with ⟨-, rfl⟩ | ⟨-, _, -, -, rfl⟩ <;> simp
  | readUnchecked => rcases execReadUnchecked_next h with ⟨-, _, -, rfl⟩ | ⟨-, _, -, -, rfl⟩ <;> simp
  | available | isEmpty | status | readTuning | eint | dint =>
    cases h
    simp

end Sys2Proof.Machine
end

section
/-! Proofs about the memory of the block (20_memory.md): no access of a reachable state leaves the ring or reads a slot
without a value (R70, R75), who writes the storage (R78), and the byte the samples assemble (R72). -/

namespace Sys2Proof.Machine

open Sys2Proof

/-! ### When the shared operations answer a next state -/

/-- The outcome is a next state: no fault of the model and no refusal. -/
def Proceeds (o : Out) : Prop := ∃ t, o = .next t

theorem next_proceeds (t : State) : Proceeds (.next t) := ⟨t, rfl⟩

theorem ite_proceeds {p : Prop} [Decidable p] {a b : Out} (ha : p → Proceeds a) (hb : ¬p → Proceeds b) :
    Proceeds (if p then a else b) := by
  split
  · exact ha ‹_›
  · exact hb ‹_›

/-- A meaning with an enabling condition: its body when enabled, held otherwise. -/
theorem guarded_proceeds {p : Prop} [Decidable p] {o : Out} {s : State} (ho : Proceeds o) :
    Proceeds (if p then o else held s) := ite_proceeds (fun _ => ho) fun _ => next_proceeds s

/-- R241: there is a command word to record. -/
theorem raiseFault_proceeds {s : State} (hw : s.hpc < s.hprog.length) (code : FaultCode) :
    Proceeds (raiseFault code s) := by
  rcases raiseFault_cases code s with ⟨w, -, e⟩ | ⟨hn, -⟩
  · exact ⟨_, e⟩
  · exact absurd (List.getElem?_eq_none_iff.1 hn) (Nat.not_le_of_lt hw)

/-- R70: HEAD names a slot, so a push finds it. -/
theorem pushByte_proceeds {s : State} (hh : s.head < s.cfg.ringCap) (b : Byte) {k : State → Out}
    (hk : ∀ t, Proceeds (k t)) : Proceeds (pushByte b s k) := by
  rcases pushByte_cases b s k with ⟨-, e⟩ | ⟨-, -, e⟩ | ⟨-, hr, -⟩
  · exact e ▸ hk _
  · exact e ▸ hk _
  · exact absurd hr (Nat.not_le_of_lt hh)

/-- R75: TAIL is in the logical range of a ring that is not empty, so its slot holds a byte. -/
theorem State.RingOk.read_tail_ne_none {s : State} (h : s.RingOk) (he : ringEmpty s = false) :
    Memory.read s.tail s.buf ≠ none := by
  have hpos : 0 < ringCount s := h.subC_addC_tail he ▸ Nat.succ_pos _
  have ht : addC s.cfg s.tail 0 = s.tail := Nat.mod_eq_of_lt h.tailRange
  exact Option.isSome_iff_ne_none.1 (ht ▸ h.ringHolds 0 hpos)

/-- R131, R132: a byte can be taken from a ring that is not empty. -/
theorem takeByte_proceeds {s : State} (h : s.RingOk) (he : ¬ringEmpty s = true) {k : Byte → State → Out}
    (hk : ∀ b t, Proceeds (k b t)) : Proceeds (takeByte s k) := by
  rcases takeByte_cases s k with ⟨b, -, -, e⟩ | ⟨-, hn, -⟩ | ⟨hr, -⟩
  · exact e ▸ hk _ _
  · exact absurd hn (h.read_tail_ne_none (Bool.eq_false_iff.2 he))
  · exact absurd hr (Nat.not_le_of_lt h.tailRange)

/-! ### With the ring in order, every step of the table answers a next state -/

/-- A command needs a word at HPC besides, to record if it faults. -/
theorem exec_proceeds {i : Instr} {s : State} (h : s.RingOk) (hw : i.WellFormed = true → s.hpc < s.hprog.length) :
    Proceeds (exec i s) := by
  cases i with
  | calibrate =>
    exact ite_proceeds (fun _ => raiseFault_proceeds (hw rfl) _) fun _ =>
      ite_proceeds (fun _ => next_proceeds _) fun _ => next_proceeds _
  | init =>
    exact ite_proceeds (fun _ => raiseFault_proceeds (hw rfl) _) fun _ =>
      ite_proceeds (fun _ => raiseFault_proceeds (hw rfl) _) fun _ => next_proceeds _
  | shutdown | send =>
    exact ite_proceeds (fun _ => raiseFault_proceeds (hw rfl) _) fun _ =>
      ite_proceeds (fun _ => next_proceeds _) fun _ => next_proceeds _
  | read =>
    exact ite_proceeds (fun _ => next_proceeds _) fun he => takeByte_proceeds h he fun _ _ => next_proceeds _
  | readUnchecked =>
    exact ite_proceeds (fun _ => raiseFault_proceeds (hw rfl) _) fun he =>
      takeByte_proceeds h he fun _ _ => next_proceeds _
  | push b => exact pushByte_proceeds h.headRange b fun _ => next_proceeds _
  | rxsmph =>
    exact guarded_proceeds (ite_proceeds
      (fun _ => pushByte_proceeds (s := rxReschedule s) h.headRange _ fun _ => next_proceeds _)
      fun _ => next_proceeds _)
  | tick => exact ite_proceeds (fun _ => next_proceeds _) fun _ => next_proceeds _
  | env line v => cases line <;> exact next_proceeds _
  | txh | rxcaph | calh | holdh | shutdownComplete | calibrateComplete => exact guarded_proceeds (next_proceeds _)
  | available | isEmpty | eint | dint | status | readTuning | shutdownStart => exact next_proceeds _

/-- R118: an enabled host has a word at HPC. -/
theorem hostStep_proceeds {s : State} (h : s.RingOk) (hen : hostEnabled s = true) : Proceeds (hostStep s) := by
  obtain ⟨-, w, hword, hc⟩ := hostEnabled_cases hen
  have hw := lt_length_of_getElem? hword
  unfold hostStep
  cases s.hwait with
  | shutdown => exact exec_proceeds h nofun
  | cal => exact exec_proceeds h nofun
  | none =>
    simp only [hostWord, hword, runCommand]
    cases decode w with
    | error e => exact raiseFault_proceeds hw _
    | ok i => exact exec_proceeds h fun _ => hw

theorem take_proceeds {c : Choice} {s : State} (h : s.RingOk) (hen : enabled c s = true) : Proceeds (take c s) := by
  unfold take
  cases c with
  | host => exact hostStep_proceeds h ((Bool.and_eq_true _ _).mp hen).2
  | tick | env | txh | holdh | rxcaph | rxsmph | calh => exact exec_proceeds h nofun

/-- The schedule's next step is one a run may take, or is held. -/
theorem runSchedule_proceeds {s : State} (h : s.Inv) (hf : s.fault = none) : Proceeds (runSchedule s) := by
  unfold runSchedule
  cases s.sched with
  | nil => exact take_proceeds h.ring (defaultChoice_enabled hf)
  | cons c cs =>
    refine ite_proceeds (fun hm => ?_) fun _ => next_proceeds _
    exact take_proceeds (h.withSched cs).ring ((enabled_withSched c s cs).trans ((mayTake_iff c s).1 hm).1)

/-- Settles O11: the configuration is legal, and the step taken is enabled with the ring in order. -/
theorem invariantStatesAlwaysStep : Obligations.InvariantStatesAlwaysStep := by
  intro s h hf
  have e : step s = runSchedule s := by simp [step, h.ring.legal, hf]
  exact e ▸ runSchedule_proceeds h hf

/-! ### Who writes the ring storage -/

/-- R70, R78: PUSH and RXSMPH write at most the slot at HEAD; no other instruction touches the storage. -/
theorem exec_buf {i : Instr} {s t : State} (h : exec i s = .next t) :
    t.buf = s.buf ∨ ((i = .rxsmph ∨ ∃ b, i = .push b) ∧ ∃ b, t.buf = Memory.write s.head b s.buf) := by
  cases i with
  | push b =>
    rcases execPush_next h with ⟨-, rfl⟩ | ⟨-, -, rfl⟩
    · exact .inl rfl
    · exact .inr ⟨.inr ⟨b, rfl⟩, b, rfl⟩
  | rxsmph =>
    rcases execRxsmph_next h with ⟨-, rfl⟩ | ⟨-, -, rfl⟩ | ⟨-, -, -, rfl⟩ | ⟨-, -, -, -, rfl⟩
    · exact .inl rfl
    · exact .inl rfl
    · exact .inl rfl
    · exact .inr ⟨.inl rfl, _, rfl⟩
  | tick =>
    rcases execTick_next h with ⟨-, rfl⟩ | ⟨-, rfl⟩
    · exact .inl rfl
    · obtain ⟨_, _, _, _, _, _, e, -⟩ := tickBody_frame s
      exact .inl (e ▸ rfl)
  | calh =>
    rcases execCalh_next h with ⟨-, rfl⟩ | ⟨-, rfl⟩
    · rcases calCapture_cases s with ⟨-, e⟩ | ⟨-, _, _, _, e⟩ | ⟨-, _, _, _, _, -, e⟩ <;> exact .inl (e ▸ rfl)
    · exact .inl rfl
  | env line v => rcases execEnv_next h with ⟨-, rfl⟩ | ⟨-, rfl⟩ <;> exact .inl rfl
  | txh => rcases execTxh_next h with ⟨-, rfl⟩ | ⟨-, rfl⟩ <;> exact .inl rfl
  | rxcaph => rcases execRxcaph_next h with ⟨-, rfl⟩ | ⟨-, rfl⟩ <;> exact .inl rfl
  | holdh => rcases execHoldh_next h with ⟨-, rfl⟩ | ⟨-, rfl⟩ <;> exact .inl rfl
  | shutdownComplete => rcases execShutdownComplete_next h with ⟨-, rfl⟩ | ⟨-, rfl⟩ <;> exact .inl rfl
  | calibrateComplete => rcases execCalibrateComplete_next h with ⟨-, rfl⟩ | ⟨-, rfl⟩ <;> exact .inl rfl
  | calibrate =>
    rcases execCalibrate_next h with ⟨-, _, -, rfl⟩ | ⟨-, -, rfl⟩ | ⟨-, -, rfl⟩ <;> exact .inl rfl
  | init => rcases execInit_next h with ⟨-, _, -, rfl⟩ | ⟨-, -, _, -, rfl⟩ | ⟨-, -, rfl⟩ <;> exact .inl rfl
  | shutdown => rcases execShutdown_next h with ⟨-, _, -, rfl⟩ | ⟨-, -, rfl⟩ | ⟨-, -, rfl⟩ <;> exact .inl rfl
  | send b => rcases execSend_next h with ⟨-, _, -, rfl⟩ | ⟨-, -, rfl⟩ | ⟨-, -, rfl⟩ <;> exact .inl rfl
  | read => rcases execRead_next h with ⟨-, rfl⟩ | ⟨-, _, -, -, rfl⟩ <;> exact .inl rfl
  | readUnchecked => rcases execReadUnchecked_next h with ⟨-, _, -, rfl⟩ | ⟨-, _, -, -, rfl⟩ <;> exact .inl rfl
  | available | isEmpty | status | readTuning | eint | dint | shutdownStart =>
    cases h
    exact .inl rfl

/-- Settles O45: the storage is unchanged, or PUSH or RXSMPH wrote the slot at HEAD. -/
theorem storageWrittenAtHeadOnly : Obligations.StorageWrittenAtHeadOnly := by
  intro i s t h
  rcases exec_buf h with e | ⟨hi, b, e⟩ <;> rw [e]
  · exact ⟨fun _ _ => rfl, fun _ _ _ => rfl, id⟩
  · refine ⟨fun a ha => Memory.read_write_other ha b _, fun hpush hrx => ?_, Memory.write_wf _ b⟩
    rcases hi with hr | ⟨c, hp⟩
    · exact absurd hr hrx
    · exact absurd hp (hpush c)

/-! ### The byte the samples assemble -/

/-- R172: the sample joins bit RXIDX; the other bits stay. -/
theorem getLsbD_withSample (acc : Byte) (idx : BitVec 3) (v : Bool) (i : Nat) :
    (withSample acc idx v).getLsbD i = (acc.getLsbD i || (decide (i = idx.toNat) && v)) := by
  have hidx := idx.isLt
  rw [withSample, BitVec.getLsbD_or, BitVec.getLsbD_shiftLeft, BitVec.getLsbD_setWidth, BitVec.getLsbD_ofBool]
  rcases Nat.lt_trichotomy i idx.toNat with hlt | rfl | hgt
  · simp [hlt, Nat.ne_of_lt hlt]
  · simp [hidx]
  · simp [Nat.ne_of_gt hgt, Nat.sub_ne_zero_of_lt hgt]

/-- R72: after `n` samples the bits below `n` are the samples, and those above are 0. -/
theorem getLsbD_foldl_withSample (v : Nat → Bool) (i : Nat) {n : Nat} (hn : n ≤ 8) :
    ((List.range n).foldl (fun acc k => withSample acc (BitVec.ofNat 3 k) (v k)) 0#8).getLsbD i
      = (decide (i < n) && v i) := by
  induction n with
  | zero => simp
  | succ n ih =>
    have hidx : (BitVec.ofNat 3 n).toNat = n := Nat.mod_eq_of_lt hn
    rw [List.range_succ, List.foldl_append, List.foldl_cons, List.foldl_nil, getLsbD_withSample, hidx,
      ih (Nat.le_of_succ_le hn)]
    rcases Nat.lt_trichotomy i n with hlt | rfl | hgt
    · simp [hlt, Nat.ne_of_lt hlt, Nat.lt_succ_of_lt hlt]
    · simp
    · simp [Nat.not_lt_of_gt hgt, Nat.ne_of_gt hgt, Nat.not_lt_of_ge hgt]

/-- Settles O34: the fold after all eight samples. -/
theorem samplesAssembleByte : Obligations.SamplesAssembleByte := by
  intro v i hi
  rw [getLsbD_foldl_withSample v i (Nat.le_refl 8), decide_eq_true hi, Bool.true_and]

end Sys2Proof.Machine
end

section
/-! Proofs about the encoding (30_encoding.md): the fields of a command word (R90), decoder and encoder against each
other (R91 to R95), and the words PRINT assembles to (R97, R98). -/

namespace Sys2Proof.Machine

open Sys2Proof

/-! ### The fields of a command word (R90) -/

@[simp] theorem opField_commandWord (op : BitVec 4) (data : Byte) : opField (commandWord op data) = op :=
  BitVec.extractLsb'_append_eq_left

@[simp] theorem rsvField_commandWord (op : BitVec 4) (data : Byte) : rsvField (commandWord op data) = 0#4 := by
  rw [rsvField, commandWord, BitVec.extractLsb'_append_eq_of_add_le (by decide)]
  exact BitVec.extractLsb'_append_eq_left

@[simp] theorem dataField_commandWord (op : BitVec 4) (data : Byte) : dataField (commandWord op data) = data := by
  rw [dataField, commandWord, BitVec.extractLsb'_append_eq_of_add_le (by decide)]
  exact BitVec.extractLsb'_append_eq_right

/-- A word with RSV 0 is the word of its OP and DATA fields. -/
theorem commandWord_fields {w : Word} (h : rsvField w = 0#4) : commandWord (opField w) (dataField w) = w := by
  have hlow : rsvField w ++ dataField w = w.extractLsb' 0 12 :=
    BitVec.extractLsb'_append_extractLsb'_eq_extractLsb' rfl
  have hall : opField w ++ w.extractLsb' 0 12 = w.extractLsb' 0 16 :=
    BitVec.extractLsb'_append_extractLsb'_eq_extractLsb' rfl
  rw [commandWord, ← h, hlow, hall, BitVec.extractLsb'_eq_self]

/-- R98 writes SEND's word as `0x4000 | c`. -/
theorem commandWord_send (b : Byte) : commandWord 0x4 b = 0x4000#16 ||| b.setWidth 16 := by
  rw [commandWord, BitVec.append_def, BitVec.append_def]
  simp

/-! ### The rows of R91 -/

/-- R94: the unassigned OP values; SEND's has a row of its own. -/
theorem plainCommand_eq_none_iff (op : BitVec 4) :
    plainCommand op = none ↔ op = 0x4#4 ∨ op = 0x0#4 ∨ op = 0xD#4 ∨ op = 0xE#4 ∨ op = 0xF#4 := by
  decide +revert

theorem plainCommand_op_ne_send {op : BitVec 4} {i : Instr} (h : plainCommand op = some i) : op ≠ 0x4#4 := by
  rintro rfl
  cases h

theorem plainCommand_ne_send {op : BitVec 4} {i : Instr} (h : plainCommand op = some i) (b : Byte) : i ≠ .send b := by
  rintro rfl
  unfold plainCommand at h
  split at h <;> cases h

/-- R91: the encoder's rows are the decoder's, sixteen values of OP. -/
theorem encode_plainCommand : ∀ op : BitVec 4, ∀ i ∈ plainCommand op, encode i = some (commandWord op 0) := by
  decide

/-! ### Decoding (R95) -/

/-- R95: the words that decode, by their fields. -/
theorem decode_eq_ok_iff {w : Word} {i : Instr} :
    decode w = .ok i ↔ rsvField w = 0#4
      ∧ (opField w = 0x4#4 ∧ i = .send (dataField w) ∨ plainCommand (opField w) = some i ∧ dataField w = 0#8) := by
  unfold decode
  by_cases hr : rsvField w = 0#4
  · by_cases ho : opField w = 0x4#4
    · have hn : plainCommand 0x4#4 = none := rfl
      simp [hr, ho, hn, eq_comm]
    · cases hc : plainCommand (opField w) with
      | none => simp [hr, ho]
      | some j => by_cases hd : dataField w = 0#8 <;> simp [hr, ho, hd]
  · simp [hr]

theorem decode_commandWord_send (b : Byte) : decode (commandWord 0x4 b) = .ok (.send b) := by
  simp [decode_eq_ok_iff]

theorem decode_commandWord_plain {op : BitVec 4} {i : Instr} (h : plainCommand op = some i) :
    decode (commandWord op 0) = .ok i := by
  simp [decode_eq_ok_iff, h]

theorem exists_decode_error_iff (w : Word) : (∃ e, decode w = .error e) ↔ ¬∃ i, decode w = .ok i := by
  cases decode w <;> simp

/-- R94's three clauses. -/
theorem decode_error_iff (w : Word) :
    (∃ e, decode w = .error e) ↔
      opField w = 0x0#4 ∨ opField w = 0xD#4 ∨ opField w = 0xE#4 ∨ opField w = 0xF#4 ∨ rsvField w ≠ 0#4
        ∨ (opField w ≠ 0x4#4 ∧ dataField w ≠ 0#8) := by
  simp only [exists_decode_error_iff, decode_eq_ok_iff]
  by_cases ho : opField w = 0x4#4
  · simp [ho]
  · have hn := (plainCommand_eq_none_iff (opField w)).trans (or_iff_right ho)
    simp only [← or_assoc] at hn ⊢
    rw [← hn]
    cases plainCommand (opField w) with
    | none => simp [ho]
    | some i => simp [ho, imp_iff_not_or]

/-! ### The host's step on an illegal word (R94, R220) -/

/-- R241: there is a command word to record. -/
theorem raiseFault_of_word {s : State} {w : Word} (h : s.hprog[s.hpc]? = some w) (code : FaultCode) :
    raiseFault code s = .next (s.withFault ⟨code, w⟩) := by
  simp [raiseFault, h]

/-- R118, R220: a host that waits on nothing runs the word at HPC. -/
theorem hostStep_of_word {s : State} {w : Word} (hw : s.hwait = .none) (h : s.hprog[s.hpc]? = some w) :
    hostStep s = runCommand w s := by
  simp [hostStep, hw, hostWord, h]

theorem runCommand_of_illegal {s : State} {w : Word} {e : Illegal} (h : decode w = .error e) :
    runCommand w s = raiseFault .illegalCommand s := by
  simp [runCommand, h]

/-! ### The obligations about words -/

/-- Settles O3: every command's word is one of a row of the table, and its fields are read back. -/
theorem encodeDecodeRoundTrip : Obligations.EncodeDecodeRoundTrip := by
  intro i hi
  cases i with
  | send b => exact ⟨_, rfl, decode_commandWord_send b⟩
  | calibrate | init | shutdown | read | readUnchecked | available | isEmpty | eint | dint | status | readTuning =>
    exact ⟨_, rfl, decode_commandWord_plain rfl⟩
  | tick | env | push | txh | rxcaph | rxsmph | calh | shutdownStart | holdh | shutdownComplete | calibrateComplete =>
    exact nomatch hi

/-- Settles O2: R94's clauses with the unassigned OP values spelled out, and the dispatch of an illegal word. -/
theorem illegalWordsFault : Obligations.IllegalWordsFault := by
  refine ⟨decode_error_iff, fun s w e hw hword he => ?_⟩
  rw [take, hostStep_of_word hw hword, runCommand_of_illegal he, raiseFault_of_word hword]
  rfl

/-- Settles O4: the fields of a word that decodes, and the encoder's row for them. -/
theorem decodedWords : Obligations.DecodedWords := by
  intro w i h
  obtain ⟨hr, ⟨ho, rfl⟩ | ⟨hc, hd⟩⟩ := decode_eq_ok_iff.1 h
  · have hw := commandWord_fields hr
    rw [ho] at hw
    exact ⟨congrArg some hw, hr, fun _ => rfl, fun hne => absurd ho hne⟩
  · have hw := commandWord_fields hr
    rw [hd] at hw
    exact ⟨(encode_plainCommand _ _ hc).trans (congrArg some hw), hr, fun ho => absurd ho (plainCommand_op_ne_send hc),
      fun _ => ⟨hd, plainCommand_ne_send hc⟩⟩

/-- Settles O1: each word evaluated by the decoder. -/
theorem specWordsDecode : Obligations.SpecWordsDecode :=
  ⟨rfl, rfl, rfl, rfl, rfl, rfl, rfl, rfl, rfl, rfl, rfl, rfl, rfl, rfl, rfl, rfl⟩

/-! ### PRINT (R97, R98) -/

/-- In front of any text the characters `cs` stand for the byte `b`. -/
def ReadsAs (cs : List Char) (b : Byte) : Prop :=
  ∀ {l : List Char} {bs : List Byte} {rest : List Char}, textBytes l = some (bs, rest) →
    textBytes (cs ++ l) = some (b :: bs, rest)

theorem readsAs_char {c : Char} (hlo : 0x20 ≤ c.toNat) (hhi : c.toNat ≤ 0x7E) (hq : c ≠ '"') (hb : c ≠ '\\') :
    ReadsAs [c] (BitVec.ofNat 8 c.toNat) := by
  intro l bs rest h
  have hp : isPrintable c = true := by simp [isPrintable, hlo, hhi]
  rw [List.singleton_append, textBytes]
  · simp [hp, h]
  · exact hq
  · simp [hb]

theorem readsAs_escape {c : Char} {b : Byte} (hc : escapeCode c = some b) : ReadsAs ['\\', c] b := by
  intro l bs rest h
  simp [textBytes, hc, h]

/-- The text up to its closing quote. -/
theorem textBytes_items {items : List (List Char × Byte)} (h : ∀ x ∈ items, ReadsAs x.1 x.2) :
    textBytes (items.flatMap Prod.fst ++ ['"']) = some (items.map Prod.snd, []) := by
  induction items with
  | nil => rfl
  | cons x items ih =>
    obtain ⟨hx, hrest⟩ := List.forall_mem_cons.1 h
    rw [List.flatMap_cons, List.append_assoc]
    exact hx (ih hrest)

theorem encodeAll_sends (bs : List Byte) :
    encodeAll (bs.map Instr.send) = some (bs.map fun b => commandWord 0x4 b) := by
  induction bs with
  | nil => rfl
  | cons b bs ih =>
    rw [List.map_cons, encodeAll, ih]
    rfl

theorem lineCommands_print (rest : List Char) :
    lineCommands "PRINT".toList (' ' :: rest) = printOperand (' ' :: rest) := rfl

theorem takeMnemonic_print (rest : List Char) :
    takeMnemonic ("PRINT".toList ++ ' ' :: rest) = ("PRINT".toList, ' ' :: rest) := rfl

/-- The commands of a PRINT line whose text is closed at its end. -/
theorem printOperand_text {text : List Char} {bs : List Byte} (h : textBytes text = some (bs, [])) :
    printOperand (' ' :: '"' :: text) = some (bs.map Instr.send) := by
  have hs : skipBlanks (' ' :: '"' :: text) = '"' :: text := rfl
  have he : lineEnds [] = true := rfl
  simp only [printOperand, hs, h, he, if_true]

theorem assembleLine_print {text : List Char} {bs : List Byte} (h : textBytes text = some (bs, [])) :
    assembleLine ("PRINT \"".toList ++ text) = encodeAll (bs.map Instr.send) := by
  have hline : "PRINT \"".toList ++ text = "PRINT".toList ++ ' ' :: '"' :: text := rfl
  have hskip : skipBlanks ("PRINT".toList ++ ' ' :: '"' :: text) = "PRINT".toList ++ ' ' :: '"' :: text := rfl
  have hends : lineEnds ("PRINT".toList ++ ' ' :: '"' :: text) = false := rfl
  simp only [hline, assembleLine, hskip, hends, takeMnemonic_print, lineCommands_print, printOperand_text h]
  rfl

/-- Settles O5: each item of the text is read as its byte, and each byte is assembled to its SEND word. -/
theorem printAssemblesToSends : Obligations.PrintAssemblesToSends := by
  intro items h
  have hitems : ∀ x ∈ items, ReadsAs x.1 x.2 := by
    intro x hx
    rcases h x hx with ⟨c, hlo, hhi, hq, hb, rfl⟩ | rfl | rfl | rfl | rfl
    · exact readsAs_char hlo hhi hq hb
    · exact readsAs_escape rfl
    · exact readsAs_escape rfl
    · exact readsAs_escape rfl
    · exact readsAs_escape rfl
  rw [assembleLine_print (textBytes_items hitems), encodeAll_sends, List.map_map]
  simp only [Function.comp_def, commandWord_send]

end Sys2Proof.Machine
end

section
/-! Proofs about the timer, the environment and the steps of R110's table (40_timer.md R110 to R118): what a tick
writes, when a compare fires, when each step is enabled, and which step the machine takes. -/

namespace Sys2Proof.Machine

open Sys2Proof

/-! ### The tick (R111 to R114) -/

theorem chan1Input_eq (s : State) : chan1Input s = if s.ccis1 = .ref then s.refIn else s.rxdIn := by
  unfold chan1Input
  cases s.ccis1 <;> rfl

/-- R111, the edge table. -/
theorem edgeSeen_iff (s : State) (in1 : Bool) : edgeSeen s in1 = true ↔
    (s.cm1 = .falling ∧ s.prev1 = true ∧ in1 = false) ∨ (s.cm1 = .rising ∧ s.prev1 = false ∧ in1 = true) := by
  unfold edgeSeen
  cases s.cm1 <;> simp

theorem tickBody_of_stop {s : State} (h : s.tmode = .stop) :
    tickBody s = { s with now := s.now + 1, prev1 := chan1Input s } := by
  simp [tickBody, h]

/-- R111 to R114: a counting tick, each condition read before the tick but for the new TAR. -/
theorem tickBody_of_cont {s : State} (h : s.tmode = .cont) :
    tickBody s = { s with
      now := s.now + 1
      prev1 := chan1Input s
      tar := addW s.cfg s.tar 1
      txd := if addW s.cfg s.tar 1 = s.ccr0 ∧ s.outmod0 = .set ∧ s.txd ≠ .rel then .hi else s.txd
      ifg0 := decide (addW s.cfg s.tar 1 = s.ccr0) || s.ifg0
      ccr1 := if s.cap1 && edgeSeen s (chan1Input s) then addW s.cfg s.tar 1 else s.ccr1
      scci1 := if !s.cap1 && decide (addW s.cfg s.tar 1 = s.ccr1) then chan1Input s else s.scci1
      ifg1 := (s.cap1 && edgeSeen s (chan1Input s)) || (!s.cap1 && decide (addW s.cfg s.tar 1 = s.ccr1)) || s.ifg1 } := by
  simp only [tickBody, h, countTick, tickChannel0_eq, tickChannel1_eq]
  rfl

theorem execTick_of_not_urgent {s : State} (h : urgent s = false) : execTick s = .next (tickBody s) :=
  if_neg (Bool.eq_false_iff.1 h)

/-- Settles O41: each condition of the statement is the model's, as a Boolean. -/
theorem tickResult : Obligations.TickResult := by
  intro s hu in1 hin
  rw [← chan1Input_eq] at hin
  subst hin
  refine ⟨fun hm => ?_, fun hm tar ch0 cap cmp htar hch0 hcap hcmp => ?_⟩
  · exact (execTick_of_not_urgent hu).trans (congrArg _ (tickBody_of_stop hm))
  · have e0 : ch0 = decide (addW s.cfg s.tar 1 = s.ccr0) := by
      rw [Bool.eq_iff_iff, hch0, htar, decide_eq_true_iff, addW]
    have ecap : cap = (s.cap1 && edgeSeen s (chan1Input s)) := by
      rw [Bool.eq_iff_iff, hcap, Bool.and_eq_true, edgeSeen_iff]
    have ecmp : cmp = (!s.cap1 && decide (addW s.cfg s.tar 1 = s.ccr1)) := by
      rw [Bool.eq_iff_iff, hcmp, htar, Bool.and_eq_true, Bool.not_eq_true', decide_eq_true_iff, addW]
    refine (execTick_of_not_urgent hu).trans (congrArg _ ?_)
    rw [tickBody_of_cont hm, e0, ecap, ecmp, htar]
    simp only [decide_eq_true_iff]
    rfl

/-- Settles O42. -/
theorem envResult : Obligations.EnvResult := fun _ _ => ⟨rfl, rfl⟩

/-! ### Counting ticks in a row (R115) -/

/-- While CONT, ticks move TAR on and leave the compare registers alone. -/
theorem iterate_tickBody {s : State} (hm : s.tmode = .cont) (k : Nat) :
    (tickBody^[k] s).tmode = .cont ∧ (tickBody^[k] s).cfg = s.cfg ∧ (tickBody^[k] s).ccr0 = s.ccr0
      ∧ (tickBody^[k] s).cap1 = s.cap1 ∧ (s.cap1 = false → (tickBody^[k] s).ccr1 = s.ccr1)
      ∧ (s.tar < 2 ^ s.cfg.timerW → (tickBody^[k] s).tar = (s.tar + k) % 2 ^ s.cfg.timerW) := by
  induction k with
  | zero => exact ⟨hm, rfl, rfl, rfl, fun _ => rfl, fun h => (Nat.mod_eq_of_lt h).symm⟩
  | succ k ih =>
    obtain ⟨ihm, ihcfg, ih0, ihcap, ih1, ihtar⟩ := ih
    rw [Function.iterate_succ_apply', tickBody_of_cont ihm]
    refine ⟨ihm, ihcfg, ih0, ihcap, fun hc => ?_, fun ht => ?_⟩
    · simp [ihcap, hc, ih1 hc]
    · simp [addW, ihcfg, ihtar ht, Nat.add_assoc]

/-- R115, for the flag of either channel: a flag that each tick sets when the counter meets `tar + d` is set first at the
d-th tick, because the counter takes no value twice in fewer than `M` ticks. -/
theorem fires_first_at {M tar d : Nat} {flag : Nat → Bool} (h0 : flag 0 = false)
    (hs : ∀ k, flag (k + 1) = (decide ((tar + (k + 1)) % M = (tar + d) % M) || flag k)) (hd : d < M) (h1 : 1 ≤ d)
    {k : Nat} (hk : k ≤ d) : flag k = true ↔ k = d := by
  induction k with
  | zero => simp [h0, Nat.ne_of_lt h1]
  | succ k ih =>
    have hflag : flag k = false := Bool.eq_false_iff.2 (mt (ih (Nat.le_of_succ_le hk)).1 (Nat.ne_of_lt hk))
    rw [hs, hflag, Bool.or_false, decide_eq_true_iff]
    refine ⟨fun h => ?_, fun h => h ▸ rfl⟩
    exact (Nat.ModEq.add_left_cancel' tar h).eq_of_lt_of_lt (Nat.lt_of_le_of_lt hk hd) hd

/-- Settles O43: each counting tick sets a compare's flag when the new TAR is the register. -/
theorem schedulingLaw : Obligations.SchedulingLaw := by
  intro s d k hm ht h1 hd hk
  have hdM : d < 2 ^ s.cfg.timerW := Nat.lt_of_le_of_lt hd (Nat.sub_one_lt (Nat.two_pow_pos _).ne')
  refine ⟨fun hreg hflag => ?_, fun hcap hreg hflag => ?_⟩
  · refine fires_first_at (tar := s.tar) (flag := fun k => (tickBody^[k] s).ifg0) hflag (fun k => ?_) hdM h1 hk
    obtain ⟨hmk, hcfg, h0, -, -, -⟩ := iterate_tickBody hm k
    obtain ⟨-, -, -, -, -, htar⟩ := iterate_tickBody hm (k + 1)
    simp only [Function.iterate_succ_apply', tickBody_of_cont hmk] at htar ⊢
    rw [htar ht, h0, hreg]
  · refine fires_first_at (tar := s.tar) (flag := fun k => (tickBody^[k] s).ifg1) hflag (fun k => ?_) hdM h1 hk
    obtain ⟨hmk, -, -, hcapk, hccr1, -⟩ := iterate_tickBody hm k
    obtain ⟨-, -, -, -, -, htar⟩ := iterate_tickBody hm (k + 1)
    simp only [Function.iterate_succ_apply', tickBody_of_cont hmk] at htar ⊢
    simp [htar ht, hcapk, hcap, hccr1 hcap, hreg]

/-! ### When each step is enabled (R110) -/

theorem enabled_txh_iff (s : State) :
    enabled .txh s = true ↔ s.fault = none ∧ s.ifg0 = true ∧ s.txIe = true ∧ s.gie = true := by
  simp [enabled, txhEnabled, and_assoc]

theorem enabled_rxcaph_iff (s : State) : enabled .rxcaph s = true ↔
    s.fault = none ∧ s.ifg1 = true ∧ s.rxIe = true ∧ s.gie = true ∧ s.cap1 = true := by
  simp [enabled, rxcaphEnabled, and_assoc]

theorem enabled_rxsmph_iff (s : State) : enabled .rxsmph s = true ↔
    s.fault = none ∧ s.ifg1 = true ∧ s.rxIe = true ∧ s.gie = true ∧ s.cap1 = false := by
  simp [enabled, rxsmphEnabled, and_assoc]

theorem enabled_calh_iff (s : State) : enabled .calh s = true ↔
    s.fault = none ∧ s.ifg1 = true ∧ (s.calState = .prime ∨ s.calState = .run) := by
  simp [enabled, calhEnabled, calibrating]

theorem enabled_env_iff (line : InputLine) (v : Bool) (s : State) : enabled (.env line v) s = true ↔ s.fault = none := by
  simp [enabled]

theorem enabled_tick_iff (s : State) : enabled .tick s = true ↔ s.fault = none ∧ urgent s = false := by
  simp [enabled]

theorem enabled_host_iff (s : State) : enabled .host s = true ↔ s.fault = none ∧ hostEnabled s = true := by
  simp [enabled]

theorem fault_none_of_enabled {c : Choice} {s : State} (h : enabled c s = true) : s.fault = none :=
  Option.isNone_iff_eq_none.1 (Bool.and_elim_left h)

/-- R213: HOLDH waits for the RX handlers. -/
theorem enabled_holdh_iff (s : State) : enabled .holdh s = true ↔
    s.fault = none ∧ s.ifg0 = true ∧ s.pstate = .holding ∧ enabled .rxcaph s = false ∧ enabled .rxsmph s = false := by
  cases hf : s.fault <;> simp [enabled, holdhEnabled, hf, and_assoc]

/-- R116: a state is urgent when a handler is enabled. -/
theorem urgent_eq_false_iff_handlers {s : State} (hf : s.fault = none) :
    urgent s = false ↔ ∀ c ∈ handlers, enabled c s = false := by
  simp [urgent_eq_false, handlers, enabled, hf]

theorem urgent_of_handler {c : Choice} {s : State} (hc : c ∈ handlers) (h : enabled c s = true) : urgent s = true := by
  by_contra hu
  have hn := (urgent_eq_false_iff_handlers (fault_none_of_enabled h)).1 (Bool.eq_false_iff.2 hu) c hc
  exact Bool.false_ne_true (hn.symm.trans h)

theorem enabled_tick_iff_handlers (s : State) :
    enabled .tick s = true ↔ s.fault = none ∧ ∀ c ∈ handlers, enabled c s = false :=
  (enabled_tick_iff s).trans (and_congr_right urgent_eq_false_iff_handlers)

/-- R118, R150, R211: which commands are held, and when. -/
theorem commandReady_iff (w : Word) (s : State) : commandReady w s = true ↔
    ¬ ((∃ b, decode w = .ok (.send b)) ∧ s.pstate = .active ∧ s.txIe = true)
      ∧ ¬ (decode w = .ok .shutdown ∧ s.pstate ≠ .inactive ∧ s.txIe = true) := by
  unfold commandReady
  cases decode w with
  | error e => simp
  | ok i => cases i <;> simp [commandHeld, imp_iff_not_or]

/-- R110, R118: the row HOST, for the command at HPC and for what the host waits on. -/
theorem hostEnabled_iff (s : State) : hostEnabled s = true ↔ urgent s = false ∧ ∃ w, s.hprog[s.hpc]? = some w
    ∧ ((s.hwait = .none ∧ commandReady w s = true)
      ∨ (s.hwait = .shutdown ∧ s.pstate = .inactive)
      ∨ (s.hwait = .cal ∧ (s.calState = .done ∨ s.calState = .fail))) := by
  cases hu : urgent s with
  | true => simp [hostEnabled, hu]
  | false =>
    cases hw : s.hprog[s.hpc]? with
    | none => simp [hostEnabled, hostWord, hw]
    | some w =>
      cases hh : s.hwait <;>
        simp [hostEnabled, hostWord, hu, hw, hh, shutdownCompleteEnabled, calibrateCompleteEnabled]

/-! ### Which step the machine takes -/

theorem step_of_legal {s : State} (hl : s.cfg.legal = true) (hf : s.fault = none) : step s = runSchedule s := by
  simp [step, hl, hf]

/-- The schedule's entry is taken, or passed over. -/
theorem step_of_sched_cons {s : State} {c : Choice} {cs : List Choice} (hl : s.cfg.legal = true) (hf : s.fault = none)
    (hs : s.sched = c :: cs) :
    step s = if mayTake c s = true then take c (s.withSched cs) else .next (s.withSched cs) := by
  simp [step_of_legal hl hf, runSchedule, hs]

theorem mayTake_eq_false_iff (c : Choice) (s : State) :
    mayTake c s = false ↔ enabled c s = false ∨ (c = .tick ∧ hostEnabled s = true) := by
  rw [Bool.eq_false_iff, Ne, mayTake_iff, not_and_or, Classical.not_imp, Bool.not_eq_true, Bool.not_eq_false]

/-- Settles O14: the rows of the table, and the machine's choice at a schedule's entry. -/
theorem enabledSteps : Obligations.EnabledSteps := by
  intro s
  refine ⟨enabled_txh_iff s, enabled_holdh_iff s, enabled_rxcaph_iff s, enabled_rxsmph_iff s, enabled_calh_iff s,
    enabled_tick_iff_handlers s, fun line v => enabled_env_iff line v s, ?_, fun c hl hen => ?_⟩
  · simp only [enabled_host_iff, enabled_tick_iff, hostEnabled_iff, commandReady_iff, and_assoc]
  · have hf : s.fault = none := fault_none_of_enabled hen
    have hhost : enabled .host s = hostEnabled s := by simp [enabled, hf]
    have hstep : step { s with sched := c :: s.sched } = if mayTake c s = true then take c s else .next s :=
      mayTake_withSched c s _ ▸ step_of_sched_cons (s := s.withSched (c :: s.sched)) hl hf rfl
    rw [hhost, hstep]
    refine ⟨fun h => if_pos ((mayTake_iff c s).2 ⟨hen, h⟩), fun hc hh => if_neg (Bool.eq_false_iff.1 ?_)⟩
    exact (mayTake_eq_false_iff c s).2 (.inr ⟨hc, hh⟩)

/-- What the machine may take is a move of the table that obeys C14, whatever the schedule. -/
theorem moves_of_mayTake {c : Choice} {s t : State} {l : List Choice} (hm : mayTake c s = true)
    (ht : take c (s.withSched l) = .next t) : hostFirst s c ∧ Moves c (s.withSched l) t :=
  have ⟨hen, hfirst⟩ := (mayTake_iff c s).1 hm
  ⟨hfirst, (enabled_withSched c s l).trans hen, ht⟩

/-- Settles O15: the cases of a step. -/
theorem stepTakesAnEnabledStep : Obligations.StepTakesAnEnabledStep := by
  intro s t h
  obtain ⟨-, hf, ⟨hs, ht⟩ | ⟨c, cs, hs, ⟨hm, ht⟩ | ⟨hm, rfl⟩⟩⟩ := step_cases h
  · exact ⟨hf, .inl ⟨hs, _, moves_of_mayTake (l := s.sched) (defaultChoice_mayTake hf) ht⟩⟩
  · exact ⟨hf, .inr ⟨c, cs, hs, .inl (moves_of_mayTake hm ht)⟩⟩
  · refine ⟨hf, .inr ⟨c, cs, hs, .inr ⟨?_, rfl⟩⟩⟩
    exact ((mayTake_eq_false_iff c s).1 hm).imp_right (And.imp_right fun hh => (enabled_host_iff s).2 ⟨hf, hh⟩)

/-! ### The host's step (R118, R220) -/

/-- R150, R211: a command that is held changes nothing. -/
theorem exec_of_held {i : Instr} {s : State} (h : commandHeld i s = true) : exec i s = .next s := by
  unfold commandHeld at h
  split at h
  · simp_all [exec, execSend]
  · simp_all [exec, execShutdown]
  · cases h

theorem hostStep_of_decoded {s : State} {w : Word} {i : Instr} (hw : s.hwait = .none) (hp : s.hprog[s.hpc]? = some w)
    (hd : decode w = .ok i) : hostStep s = exec i s := by
  rw [hostStep_of_word hw hp, runCommand, hd]

/-- Settles O12: HOST is enabled unless the command is held, and then the command's meaning is to hold too. -/
theorem stepRunsDecodedCommand : Obligations.StepRunsDecodedCommand := by
  intro s w i hl hf hw hu hp hd
  have hhost : hostEnabled s = commandReady w s := by
    rw [Bool.eq_iff_iff, hostEnabled_iff]
    simp [hu, hp, hw]
  refine ⟨fun cs hs => ?_, fun hs hready => ?_⟩
  · rw [step_of_sched_cons hl hf hs]
    cases hready : commandReady w s with
    | true =>
      rw [if_pos ((mayTake_iff _ _).2 ⟨(enabled_host_iff s).2 ⟨hf, hhost.trans hready⟩, nofun⟩)]
      exact hostStep_of_decoded (s := s.withSched cs) hw hp hd
    | false =>
      have hen : enabled .host s ≠ true := by simp [enabled_host_iff, hhost, hready]
      have hheld : commandHeld i s = true := by simpa [commandReady, hd] using hready
      rw [if_neg fun h => hen ((mayTake_iff _ _).1 h).1]
      exact (exec_of_held (s := s.withSched cs) hheld).symm
  · have hdefault : defaultChoice s = .host := by simp [defaultChoice_of_not_urgent hu, hhost, hready]
    have hstep : step s = take .host s := by simp [step_of_legal hl hf, runSchedule, hs, hdefault]
    exact hstep.trans (hostStep_of_decoded hw hp hd)

end Sys2Proof.Machine
end

section
/-! Proofs about whole runs (40_timer.md R116, R119; 90_conflicts.md C14): between two ticks only finitely many handler
and host steps are taken, so every weakly fair run ticks on; an enabled handler stays enabled until it is taken; and the
machine's own runs are weakly fair. -/

namespace Sys2Proof.Machine

open Sys2Proof

/-! ### What a step of the table can do -/

/-- R110: the rows of the table: time, the environment, the host and the handlers. -/
theorem choice_cases (c : Choice) : c = .tick ∨ (∃ line v, c = .env line v) ∨ c = .host ∨ c ∈ handlers := by
  cases c <;> simp [handlers]

/-- A decoded command is no internal step (R99). -/
theorem decode_ne_tick {w : Word} {i : Instr} (h : decode w = .ok i) : i ≠ .tick := fun e =>
  nomatch e ▸ decode_wellFormed h

/-- R110, R220: a step of the table is the meaning of an instruction, TICK's for TICK alone, or records an illegal
word. -/
theorem moves_exec {c : Choice} {s t : State} (h : Moves c s t) :
    (∃ i, exec i s = .next t ∧ (i = .tick → c = .tick)) ∨ ∃ r, t = s.withFault r := by
  obtain ⟨hen, ht⟩ := h
  cases c with
  | tick =>
    simp only [take] at ht
    exact .inl ⟨_, ht, fun _ => rfl⟩
  | host =>
    obtain ⟨-, w, -, ⟨-, -, -, rfl⟩ | ⟨-, -, i, hd, he⟩ | ⟨-, -, he⟩ | ⟨-, -, he⟩⟩ :=
      hostStep_cases ((enabled_host_iff s).1 hen).2 ht
    · exact .inr ⟨_, rfl⟩
    · exact .inl ⟨i, he, fun hi => absurd hi (decode_ne_tick hd)⟩
    · exact .inl ⟨_, he, nofun⟩
    · exact .inl ⟨_, he, nofun⟩
  | env | txh | holdh | rxcaph | rxsmph | calh =>
    simp only [take] at ht
    exact .inl ⟨_, ht, nofun⟩

/-- R49, R57: no step writes the host program or the schedule. -/
theorem moves_keeps_hprog_sched {c : Choice} {s t : State} (h : Moves c s t) :
    t.hprog = s.hprog ∧ t.sched = s.sched := by
  rcases moves_exec h with ⟨i, he, -⟩ | ⟨r, rfl⟩
  · obtain ⟨-, -, -, -, -, -, -, -, -, hprog, hsched, -⟩ := elementWriters i s t he
    exact ⟨hprog, hsched⟩
  · exact ⟨rfl, rfl⟩

/-- R53: NOW counts ticks alone. -/
theorem moves_keeps_now {c : Choice} {s t : State} (h : Moves c s t) (hc : c ≠ .tick) : t.now = s.now := by
  rcases moves_exec h with ⟨i, he, hi⟩ | ⟨r, rfl⟩
  · obtain ⟨-, -, hnow, -⟩ := elementWriters i s t he
    by_contra hne
    exact hc (hi (hnow (.inr hne)))
  · rfl

/-- R111: a tick advances NOW. -/
theorem now_of_moves_tick {s t : State} (h : Moves .tick s t) : t.now = s.now + 1 := by
  have hu : urgent s = false := ((enabled_tick_iff s).1 h.1).2
  obtain ⟨_, _, _, _, _, _, e, -⟩ := tickBody_frame s
  cases (execTick_of_not_urgent hu).symm.trans h.2
  rw [e]

/-- R117: an environment step sets an input. -/
theorem moves_env {line : InputLine} {v : Bool} {s t : State} (h : Moves (.env line v) s t) :
    ∃ rxd ref, t = { s with rxdIn := rxd, refIn := ref } := by
  rcases execEnv_next h.2 with ⟨-, rfl⟩ | ⟨-, rfl⟩
  · exact ⟨_, _, rfl⟩
  · exact ⟨_, _, rfl⟩

/-- R110: no row of the table reads the inputs. -/
theorem enabled_of_moves_env {line : InputLine} {v : Bool} {s t : State} (h : Moves (.env line v) s t) (c : Choice) :
    enabled c t = enabled c s := by
  obtain ⟨_, _, rfl⟩ := moves_env h
  cases c <;> rfl

/-! ### The work left before a tick -/

/-- The handlers that can still run before a tick, at most: one for each pending flag. -/
def pendingFlags (s : State) : Nat := s.ifg0.toNat + s.ifg1.toNat

/-- The host steps that can still be taken, at most: one that starts each command left and one that completes it. -/
def hostWork (s : State) : Nat := 2 * (s.hprog.length - s.hpc) + (s.hwait == .none).toNat

/-- What can still happen before a tick, but for inputs: a bound on the steps of the handlers and the host. -/
def workLeft (s : State) : Nat := pendingFlags s + hostWork s

@[simp] theorem workLeft_withSched (l : List Choice) (s : State) : workLeft (s.withSched l) = workLeft s := rfl

/-- R152, R171, R172, R191, R213: a handler clears the flag that enables it, and only a tick raises one. -/
theorem handler_clears_flag {c : Choice} {s t : State} (hc : c ∈ handlers) (h : Moves c s t) :
    pendingFlags t < pendingFlags s := by
  obtain ⟨hen, ht⟩ := h
  cases c <;> simp only [take, exec] at ht
  case tick | env | host => simp [handlers] at hc
  case txh =>
    have hflag : s.ifg0 = true := ((enabled_txh_iff s).1 hen).2.1
    rcases execTxh_next ht with ⟨-, rfl⟩ | ⟨hno, -⟩
    · simp [pendingFlags, txShift, hflag]
    · simp [enabled, hno] at hen
  case holdh =>
    have hflag : s.ifg0 = true := ((enabled_holdh_iff s).1 hen).2.1
    rcases execHoldh_next ht with ⟨-, rfl⟩ | ⟨hno, -⟩
    · simp [pendingFlags, release, hflag]
    · simp [enabled, hno] at hen
  case rxcaph =>
    have hflag : s.ifg1 = true := ((enabled_rxcaph_iff s).1 hen).2.1
    rcases execRxcaph_next ht with ⟨-, rfl⟩ | ⟨hno, -⟩
    · simp [pendingFlags, rxCapture, hflag]
    · simp [enabled, hno] at hen
  case rxsmph =>
    have hflag : s.ifg1 = true := ((enabled_rxsmph_iff s).1 hen).2.1
    rcases execRxsmph_next ht with ⟨hno, -⟩ | ⟨-, -, rfl⟩ | ⟨-, -, -, rfl⟩ | ⟨-, -, -, -, rfl⟩
    · simp [enabled, hno] at hen
    all_goals simp [pendingFlags, rxReschedule, backToCapture, hflag]
  case calh =>
    have hflag : s.ifg1 = true := ((enabled_calh_iff s).1 hen).2.1
    rcases execCalh_next ht with ⟨-, rfl⟩ | ⟨hno, -⟩
    · rcases calCapture_cases s with ⟨-, e⟩ | ⟨-, _, _, _, e⟩ | ⟨-, _, _, _, _, -, e⟩ <;>
        simp [e, pendingFlags, calFinish, hflag]
    · simp [enabled, hno] at hen

/-- R118, R219: a command that is not held and raises no fault completes, or makes the host wait; it raises no flag. -/
theorem command_advances_or_waits {i : Instr} {s t : State} (hi : i.WellFormed = true)
    (hheld : commandHeld i s = false) (h : exec i s = .next t) (hf : t.fault = none) :
    pendingFlags t ≤ pendingFlags s
      ∧ ((t.hpc = s.hpc + 1 ∧ t.hwait = s.hwait) ∨ (t.hpc = s.hpc ∧ t.hwait ≠ .none)) := by
  cases i with
  | calibrate =>
    rcases execCalibrate_next h with ⟨-, _, -, rfl⟩ | ⟨-, -, rfl⟩ | ⟨-, -, rfl⟩
    · cases hf
    · simp [pendingFlags, startCalibration]
    · simp [pendingFlags, loadPreset]
  | init =>
    rcases execInit_next h with ⟨-, _, -, rfl⟩ | ⟨-, -, _, -, rfl⟩ | ⟨-, -, rfl⟩
    · cases hf
    · cases hf
    · simp [pendingFlags, activate]
  | shutdown =>
    rcases execShutdown_next h with ⟨-, _, -, rfl⟩ | ⟨hp, ht, rfl⟩ | ⟨-, -, rfl⟩
    · cases hf
    · simp [commandHeld, hp, ht] at hheld
    · simp [pendingFlags, startHold]
  | send b =>
    rcases execSend_next h with ⟨-, _, -, rfl⟩ | ⟨hp, ht, rfl⟩ | ⟨-, -, rfl⟩
    · cases hf
    · simp [commandHeld, hp, ht] at hheld
    · simp [pendingFlags, startFrame]
  | read => rcases execRead_next h with ⟨-, rfl⟩ | ⟨-, _, -, -, rfl⟩ <;> simp [pendingFlags]
  | readUnchecked =>
    rcases execReadUnchecked_next h with ⟨-, _, -, rfl⟩ | ⟨-, _, -, -, rfl⟩
    · cases hf
    · simp [pendingFlags]
  | available | isEmpty | status | readTuning | eint | dint =>
    cases h
    simp [pendingFlags]
  | tick | env | push | txh | rxcaph | rxsmph | calh | shutdownStart | holdh | shutdownComplete | calibrateComplete =>
    cases hi

/-- R118, R220: a host step without a fault completes a command, or makes the host wait on it. -/
theorem hostStep_advances_or_waits {s t : State} (h : Moves .host s t) (hf : t.fault = none) :
    pendingFlags t ≤ pendingFlags s
      ∧ ((t.hpc = s.hpc + 1 ∧ t.hwait = .none) ∨ (t.hpc = s.hpc ∧ s.hwait = .none ∧ t.hwait ≠ .none)) := by
  obtain ⟨hen, ht⟩ := h
  obtain ⟨-, w, -, hc⟩ := hostStep_cases ((enabled_host_iff s).1 hen).2 ht
  rcases hc with ⟨-, -, -, rfl⟩ | ⟨hw, hready, i, hd, he⟩ | ⟨-, hgo, he⟩ | ⟨-, hgo, he⟩
  · cases hf
  · have hheld : commandHeld i s = false := by simpa [commandReady, hd] using hready
    obtain ⟨hflags, hhost⟩ := command_advances_or_waits (decode_wellFormed hd) hheld he hf
    exact ⟨hflags, hhost.imp (And.imp_right fun e => e.trans hw) (And.imp_right fun e => ⟨hw, e⟩)⟩
  · rcases execShutdownComplete_next he with ⟨-, rfl⟩ | ⟨hno, -⟩
    · exact ⟨Nat.le_refl _, .inl ⟨rfl, rfl⟩⟩
    · exact absurd hgo (Bool.eq_false_iff.1 hno)
  · rcases execCalibrateComplete_next he with ⟨-, rfl⟩ | ⟨hno, -⟩
    · exact ⟨Nat.le_refl _, .inl ⟨rfl, rfl⟩⟩
    · exact absurd hgo (Bool.eq_false_iff.1 hno)

theorem hostWork_lt_of_host {s t : State} (h : Moves .host s t) (hf : t.fault = none) : hostWork t < hostWork s := by
  have hpc : s.hpc < s.hprog.length := by
    obtain ⟨-, w, hw, -⟩ := (hostEnabled_iff s).1 ((enabled_host_iff s).1 h.1).2
    exact lt_length_of_getElem? hw
  have hprog : t.hprog = s.hprog := (moves_keeps_hprog_sched h).1
  unfold hostWork
  rcases (hostStep_advances_or_waits h hf).2 with ⟨e, hw⟩ | ⟨e, hs, ht⟩
  · have hbit : (s.hwait == .none).toNat ≤ 1 := Bool.toNat_le _
    simp only [hprog, e, hw, beq_self_eq_true, Bool.toNat_true]
    omega
  · simp [hprog, e, hs, ht]

/-- The steps that can repeat without a tick only finitely often. -/
theorem workLeft_lt_of_moves {c : Choice} {s t : State} (h : Moves c s t) (hf : t.fault = none)
    (hc : c = .host ∨ c ∈ handlers) : workLeft t < workLeft s := by
  rcases hc with rfl | hc
  · exact Nat.add_lt_add_of_le_of_lt (hostStep_advances_or_waits h hf).1 (hostWork_lt_of_host h hf)
  · have hne : c ≠ .host := fun e => by simp [e, handlers] at hc
    obtain ⟨-, -, hprog, hpc, hwait, -⟩ := moves_keeps_host h hne
    have hhost : hostWork t = hostWork s := by rw [hostWork, hprog, hpc, hwait, hostWork]
    exact Nat.add_lt_add_of_lt_of_le (handler_clears_flag hc h) hhost.le

theorem workLeft_of_moves_env {line : InputLine} {v : Bool} {s t : State} (h : Moves (.env line v) s t) :
    workLeft t = workLeft s := by
  obtain ⟨_, _, rfl⟩ := moves_env h
  rfl

/-! ### The default choice (notes/assumptions/6.md) -/

/-- The steps that weak fairness is about (R119). -/
theorem defaultChoice_cases (s : State) :
    defaultChoice s = .tick ∨ defaultChoice s = .host ∨ defaultChoice s ∈ handlers := by
  unfold defaultChoice handlers
  split_ifs <;> simp

/-- A tick is the default only when nothing else is enabled but inputs. -/
theorem defaultChoice_eq_tick {s : State} (h : defaultChoice s = .tick) : urgent s = false ∧ hostEnabled s = false := by
  unfold defaultChoice at h
  split_ifs at h
  simp_all [urgent]

/-! ### Runs -/

section

variable {r : Nat → State} {took : Nat → Option Choice}

theorem IsRun.taken (hr : IsRun r took) {n : Nat} {c : Choice} (h : took n = some c) :
    ∃ l, Moves c ((r n).withSched l) (r (n + 1)) := by
  obtain ⟨l, hl⟩ := hr n
  rw [h] at hl
  exact ⟨l, hl⟩

theorem IsRun.idle (hr : IsRun r took) {n : Nat} (h : took n = none) : ∃ l, r (n + 1) = (r n).withSched l := by
  obtain ⟨l, hl⟩ := hr n
  rw [h] at hl
  exact ⟨l, hl⟩

theorem IsRun.now_succ (hr : IsRun r took) {n : Nat} (h : took n ≠ some .tick) : (r (n + 1)).now = (r n).now := by
  cases ht : took n with
  | none =>
    obtain ⟨l, e⟩ := hr.idle ht
    rw [e, State.withSched_now]
  | some c =>
    obtain ⟨l, hm⟩ := hr.taken ht
    simpa using moves_keeps_now hm fun e => h (e ▸ ht)

/-- Without a tick, an instant of a fault-free run uses up work, or changes nothing that R110's table reads. -/
theorem IsRun.work_succ (hr : IsRun r took) (hf : ∀ n, (r n).fault = none) {n : Nat} (h : took n ≠ some .tick) :
    workLeft (r (n + 1)) < workLeft (r n)
      ∨ (workLeft (r (n + 1)) = workLeft (r n) ∧ ∀ c, enabled c (r (n + 1)) = enabled c (r n)) := by
  cases ht : took n with
  | none =>
    obtain ⟨l, e⟩ := hr.idle ht
    exact .inr ⟨by rw [e]; rfl, fun c => by rw [e, enabled_withSched]⟩
  | some c =>
    obtain ⟨l, hm⟩ := hr.taken ht
    rcases choice_cases c with rfl | ⟨line, v, rfl⟩ | hc
    · exact absurd ht h
    · refine .inr ⟨(workLeft_of_moves_env hm).trans (workLeft_withSched l _), fun c => ?_⟩
      rw [enabled_of_moves_env hm, enabled_withSched]
    · exact .inl (by simpa using workLeft_lt_of_moves hm (hf _) hc)

/-- From some instant on, the work left is least. -/
theorem exists_least_work (r : Nat → State) (n : Nat) : ∃ m, n ≤ m ∧ ∀ k, n ≤ k → workLeft (r m) ≤ workLeft (r k) := by
  obtain ⟨m, hm, hmin⟩ := exists_minimalFor_of_wellFoundedLT (n ≤ ·) (fun k => workLeft (r k)) ⟨n, Nat.le_refl n⟩
  exact ⟨m, hm, fun k hk => (Nat.le_total _ _).elim id (hmin hk)⟩

/-- R119: in a weakly fair run ticks keep being taken. Where the work left is least, the default choice would stay
enabled for ever, and taking it would use up work. -/
theorem IsRun.exists_tick (hr : IsRun r took) (hfair : WeaklyFair r took) (hf : ∀ n, (r n).fault = none) (n : Nat) :
    ∃ m, n ≤ m ∧ took m = some .tick := by
  by_contra hno
  have hnt : ∀ m, n ≤ m → took m ≠ some .tick := fun m hm e => hno ⟨m, hm, e⟩
  obtain ⟨m, hnm, hmin⟩ := exists_least_work r n
  have hsame : ∀ k, m ≤ k → workLeft (r k) = workLeft (r m) ∧ ∀ c, enabled c (r k) = enabled c (r m) := by
    intro k hk
    induction k, hk using Nat.le_induction with
    | base => exact ⟨rfl, fun _ => rfl⟩
    | succ k hk ih =>
      rcases hr.work_succ hf (hnt k (hnm.trans hk)) with hlt | ⟨e, hen⟩
      · exact absurd (ih.1 ▸ hlt) (Nat.not_lt_of_le (hmin (k + 1) (hnm.trans (Nat.le_succ_of_le hk))))
      · exact ⟨e.trans ih.1, fun c => (hen c).trans (ih.2 c)⟩
  have hen : ∀ k, m ≤ k → enabled (defaultChoice (r m)) (r k) = true := fun k hk =>
    ((hsame k hk).2 _).trans (defaultChoice_enabled (hf m))
  have hmem : defaultChoice (r m) ∈ [Choice.tick, .host, .txh, .holdh, .rxcaph, .rxsmph, .calh] := by
    simpa [handlers] using defaultChoice_cases (r m)
  obtain ⟨k, hmk, htook⟩ := hfair _ hmem m hen
  rcases defaultChoice_cases (r m) with e | hc
  · exact hnt k (hnm.trans hmk) (e ▸ htook)
  · obtain ⟨l, hm⟩ := hr.taken htook
    have hlt := workLeft_lt_of_moves hm (hf _) hc
    rw [workLeft_withSched, (hsame k hmk).1] at hlt
    exact absurd hlt (Nat.not_lt_of_le (hmin (k + 1) (hnm.trans (Nat.le_succ_of_le hmk))))

theorem IsRun.keeps_inv (hr : IsRun r took) {n : Nat} (h : (r n).Inv) : (r (n + 1)).Inv := by
  cases ht : took n with
  | none =>
    obtain ⟨l, e⟩ := hr.idle ht
    exact e ▸ h.withSched l
  | some c =>
    obtain ⟨l, hm⟩ := hr.taken ht
    exact moves_keeps_inv (h.withSched l) hm

theorem IsRun.enabled_of_taken (hr : IsRun r took) {n : Nat} {c : Choice} (h : took n = some c) :
    enabled c (r n) = true := by
  obtain ⟨l, hm⟩ := hr.taken h
  exact (enabled_withSched c _ l).symm.trans hm.1

end

/-! ### An enabled handler stays enabled until it is taken (R116, R244) -/

section

variable {s t : State} {c d : Choice}

/-- R56 (d). -/
theorem State.Inv.active_of_txh (h : s.Inv) (hen : enabled .txh s = true) : s.pstate = .active := by
  obtain ⟨-, -, htx, -⟩ := (enabled_txh_iff s).1 hen
  exact (h.txBusy htx).1

/-- R56 (f). -/
theorem State.Inv.inactive_of_calh (h : s.Inv) (hen : enabled .calh s = true) : s.pstate = .inactive := by
  obtain ⟨-, -, hcal⟩ := (enabled_calh_iff s).1 hen
  exact (h.calibration (by simpa [calibrating] using hcal)).1

theorem State.Inv.open_of_rx (h : s.Inv) (hen : enabled .rxcaph s = true ∨ enabled .rxsmph s = true) :
    s.pstate ≠ .inactive := by
  rcases hen with hen | hen
  · obtain ⟨-, -, hrx, -⟩ := (enabled_rxcaph_iff s).1 hen
    exact h.open_of_rxIe hrx
  · obtain ⟨-, -, hrx, -⟩ := (enabled_rxsmph_iff s).1 hen
    exact h.open_of_rxIe hrx

/-- R213: no other handler is enabled beside HOLDH. -/
theorem State.Inv.holdh_alone (h : s.Inv) (hh : enabled .holdh s = true) (hc : c ∈ handlers)
    (hen : enabled c s = true) : c = .holdh := by
  obtain ⟨-, -, hp, hcap, hsmp⟩ := (enabled_holdh_iff s).1 hh
  cases c with
  | tick | env | host => simp [handlers] at hc
  | holdh => rfl
  | txh => exact nomatch hp.symm.trans (h.active_of_txh hen)
  | rxcaph => exact nomatch hcap.symm.trans hen
  | rxsmph => exact nomatch hsmp.symm.trans hen
  | calh => exact nomatch hp.symm.trans (h.inactive_of_calh hen)

/-- R287: no other handler is enabled beside CALH. -/
theorem State.Inv.calh_alone (h : s.Inv) (hh : enabled .calh s = true) (hc : c ∈ handlers)
    (hen : enabled c s = true) : c = .calh := by
  have hp := h.inactive_of_calh hh
  cases c with
  | tick | env | host => simp [handlers] at hc
  | calh => rfl
  | txh => exact nomatch hp.symm.trans (h.active_of_txh hen)
  | rxcaph => exact absurd hp (h.open_of_rx (.inl hen))
  | rxsmph => exact absurd hp (h.open_of_rx (.inr hen))
  | holdh => exact nomatch hp.symm.trans ((enabled_holdh_iff s).1 hen).2.2.1

/-- R171, R172: CAP1 tells which RX handler an event is for. -/
theorem rx_handlers_exclusive (hcap : enabled .rxcaph s = true) (hsmp : enabled .rxsmph s = true) : False := by
  obtain ⟨-, -, -, -, h1⟩ := (enabled_rxcaph_iff s).1 hcap
  obtain ⟨-, -, -, -, h0⟩ := (enabled_rxsmph_iff s).1 hsmp
  exact Bool.false_ne_true (h0.symm.trans h1)

/-- R152: TXH writes nothing that enables an RX handler. -/
theorem rx_enabled_of_moves_txh (h : Moves .txh s t) :
    enabled .rxcaph t = enabled .rxcaph s ∧ enabled .rxsmph t = enabled .rxsmph s := by
  rcases execTxh_next h.2 with ⟨-, rfl⟩ | ⟨-, rfl⟩ <;> exact ⟨rfl, rfl⟩

/-- R171: RXCAPH writes nothing that enables TXH. -/
theorem txh_enabled_of_moves_rxcaph (h : Moves .rxcaph s t) : enabled .txh t = enabled .txh s := by
  rcases execRxcaph_next h.2 with ⟨-, rfl⟩ | ⟨-, rfl⟩ <;> rfl

/-- R172, R173: RXSMPH writes nothing that enables TXH. -/
theorem txh_enabled_of_moves_rxsmph (h : Moves .rxsmph s t) : enabled .txh t = enabled .txh s := by
  rcases execRxsmph_next h.2 with ⟨-, rfl⟩ | ⟨-, -, rfl⟩ | ⟨-, -, -, rfl⟩ | ⟨-, -, -, -, rfl⟩ <;> rfl

/-- In a state of the invariant, a handler enabled beside another one is TXH or an RX handler. -/
theorem State.Inv.engine_of_not_alone (h : s.Inv) (hc : c ∈ handlers) (hen : enabled c s = true) (hd : d ∈ handlers)
    (hend : enabled d s = true) (hne : d ≠ c) : c = .txh ∨ c = .rxcaph ∨ c = .rxsmph := by
  cases c with
  | tick | env | host => simp [handlers] at hc
  | holdh => exact absurd (h.holdh_alone hen hd hend) hne
  | calh => exact absurd (h.calh_alone hen hd hend) hne
  | txh | rxcaph | rxsmph => simp

/-- In a state of the invariant one handler never disables another: those that write a common flag are never enabled
together. -/
theorem handler_keeps_handler (h : s.Inv) (hc : c ∈ handlers) (hen : enabled c s = true) (hd : d ∈ handlers)
    (hm : Moves d s t) (hne : d ≠ c) : enabled c t = true := by
  have hend : enabled d s = true := hm.1
  rcases h.engine_of_not_alone hd hend hc hen hne.symm with rfl | rfl | rfl <;>
    rcases h.engine_of_not_alone hc hen hd hend hne with rfl | rfl | rfl
  case inl.inl | inr.inl.inr.inl | inr.inr.inr.inr => exact absurd rfl hne
  case inl.inr.inl => exact (rx_enabled_of_moves_txh hm).1.trans hen
  case inl.inr.inr => exact (rx_enabled_of_moves_txh hm).2.trans hen
  case inr.inl.inl => exact (txh_enabled_of_moves_rxcaph hm).trans hen
  case inr.inr.inl => exact (txh_enabled_of_moves_rxsmph hm).trans hen
  case inr.inl.inr.inr => exact (rx_handlers_exclusive hend hen).elim
  case inr.inr.inr.inl => exact (rx_handlers_exclusive hen hend).elim

/-- R116: an enabled handler keeps time and the host back. -/
theorem not_tick_or_host_of_handler (hc : c ∈ handlers) (hen : enabled c s = true) (hd : enabled d s = true) :
    d ≠ .tick ∧ d ≠ .host := by
  have hu : urgent s = true := urgent_of_handler hc hen
  refine ⟨?_, ?_⟩ <;> rintro rfl
  · exact nomatch hu.symm.trans ((enabled_tick_iff s).1 hd).2
  · exact nomatch hu.symm.trans ((hostEnabled_iff s).1 ((enabled_host_iff s).1 hd).2).1

/-- An enabled handler stays enabled whatever other step is taken. -/
theorem handler_stays_enabled (h : s.Inv) (hc : c ∈ handlers) (hen : enabled c s = true) (hm : Moves d s t)
    (hne : d ≠ c) : enabled c t = true := by
  obtain ⟨htick, hhost⟩ := not_tick_or_host_of_handler hc hen hm.1
  rcases choice_cases d with rfl | ⟨line, v, rfl⟩ | rfl | hd
  · exact absurd rfl htick
  · exact (enabled_of_moves_env hm c).trans hen
  · exact absurd rfl hhost
  · exact handler_keeps_handler h hc hen hd hm hne

end

/-! ### Weakly fair runs (R119) -/

section

variable {r : Nat → State} {took : Nat → Option Choice}

theorem exists_first {p : Nat → Prop} {n : Nat} (h : ∃ m, n ≤ m ∧ p m) :
    ∃ m, n ≤ m ∧ p m ∧ ∀ k, n ≤ k → k < m → ¬p k := by
  classical
  obtain ⟨hn, hp⟩ := Nat.find_spec h
  exact ⟨Nat.find h, hn, hp, fun k hk hlt hpk => Nat.find_min h hlt ⟨hk, hpk⟩⟩

/-- Until the first tick NOW stands still. -/
theorem IsRun.now_eq (hr : IsRun r took) {n m : Nat} (hnm : n ≤ m)
    (hno : ∀ k, n ≤ k → k < m → took k ≠ some .tick) : (r m).now = (r n).now := by
  induction m, hnm using Nat.le_induction with
  | base => rfl
  | succ m hm ih =>
    exact (hr.now_succ (hno m hm (Nat.lt_succ_self m))).trans (ih fun k hk hlt => hno k hk (Nat.lt_succ_of_lt hlt))

/-- Until it is taken, a handler enabled in a state of the invariant stays enabled, and the invariant holds. -/
theorem IsRun.handler_waits (hr : IsRun r took) {n m : Nat} {c : Choice} (hnm : n ≤ m) (h : (r n).Inv)
    (hc : c ∈ handlers) (hen : enabled c (r n) = true) (hno : ∀ k, n ≤ k → k < m → took k ≠ some c) :
    (r m).Inv ∧ enabled c (r m) = true := by
  induction m, hnm using Nat.le_induction with
  | base => exact ⟨h, hen⟩
  | succ m hm ih =>
    obtain ⟨hinv, henm⟩ := ih fun k hk hlt => hno k hk (Nat.lt_succ_of_lt hlt)
    refine ⟨hr.keeps_inv hinv, ?_⟩
    cases ht : took m with
    | none =>
      obtain ⟨l, e⟩ := hr.idle ht
      rw [e, enabled_withSched, henm]
    | some d =>
      obtain ⟨l, hmv⟩ := hr.taken ht
      have hne : d ≠ c := fun e => hno m hm (Nat.lt_succ_self m) (e ▸ ht)
      exact handler_stays_enabled (hinv.withSched l) hc ((enabled_withSched c _ l).trans henm) hmv hne

/-- R119: an enabled handler is taken, because it would otherwise stay enabled for ever. -/
theorem IsRun.exists_handler_taken (hr : IsRun r took) (hfair : WeaklyFair r took) {n : Nat} {c : Choice}
    (h : (r n).Inv) (hc : c ∈ handlers) (hen : enabled c (r n) = true) : ∃ m, n ≤ m ∧ took m = some c := by
  by_contra hno
  have hnc : ∀ m, n ≤ m → took m ≠ some c := fun m hm e => hno ⟨m, hm, e⟩
  have hmem : c ∈ [Choice.tick, .host, .txh, .holdh, .rxcaph, .rxsmph, .calh] :=
    List.mem_cons_of_mem _ (List.mem_cons_of_mem _ hc)
  exact hno (hfair c hmem n fun m hm => (hr.handler_waits hm h hc hen fun k hk _ => hnc k hk).2)

end

/-- Settles O51: the first tick and the first time the handler is taken. -/
theorem fairRunsAdvanceTime : Obligations.FairRunsAdvanceTime := by
  intro r took hr hfair hf
  refine ⟨fun n => ?_, fun n h c hc hen => ?_⟩
  · obtain ⟨m, hnm, htick, hno⟩ := exists_first (hr.exists_tick hfair hf n)
    have hnow : (r m).now = (r n).now := hr.now_eq hnm hno
    obtain ⟨l, hm⟩ := hr.taken htick
    exact ⟨m, hnm, htick, hnow, (now_of_moves_tick hm).trans (congrArg (· + 1) hnow)⟩
  · obtain ⟨m, hnm, htook, hno⟩ := exists_first (hr.exists_handler_taken hfair h hc hen)
    refine ⟨m, hnm, htook, fun k hk hlt => ?_⟩
    obtain ⟨-, henk⟩ := hr.handler_waits hk h hc hen fun j hj hjk => hno j hj (hjk.trans hlt)
    exact ⟨fun e => (not_tick_or_host_of_handler hc henk (hr.enabled_of_taken e)).1 rfl,
      fun e => (not_tick_or_host_of_handler hc henk (hr.enabled_of_taken e)).2 rfl⟩

/-! ### The machine's own runs -/

/-- The machine consumes one entry of the schedule at each step. -/
theorem step_sched {s t : State} (h : step s = .next t) : t.sched = s.sched.tail := by
  rcases step_chosen h with ⟨c, -, hm, ht⟩ | ⟨-, rfl⟩
  · exact (moves_keeps_hprog_sched (moves_of_mayTake hm ht).2).2
  · rfl

theorem hostFirst_of_chosen {s t : State} {c : Choice} (h : step s = .next t) (hc : chosen s = some c) :
    hostFirst s c := by
  rcases step_chosen h with ⟨d, hd, hm, -⟩ | ⟨hn, -⟩
  · cases hc.symm.trans hd
    exact ((mayTake_iff c s).1 hm).2
  · exact nomatch hc.symm.trans hn

section

variable {r : Nat → State} (h : ∀ n, step (r n) = .next (r (n + 1)))

include h

theorem isRun_of_steps : IsRun r (fun n => chosen (r n)) := by
  intro n
  rcases step_chosen (h n) with ⟨c, hc, hm, ht⟩ | ⟨hc, e⟩
  · exact ⟨_, by simpa only [hc] using (moves_of_mayTake hm ht).2⟩
  · exact ⟨_, by simpa only [hc] using e⟩

theorem fault_none_of_steps (n : Nat) : (r n).fault = none := (step_cases (h n)).2.1

/-- Every schedule is used up, and then the default order is followed. -/
theorem sched_of_steps (n k : Nat) : (r (n + k)).sched = (r n).sched.drop k := by
  induction k with
  | zero => rfl
  | succ k ih => rw [← Nat.add_assoc, step_sched (h (n + k)), ih, List.tail_drop]

theorem chosen_after_schedule {n m : Nat} (hm : n + (r n).sched.length ≤ m) :
    chosen (r m) = some (defaultChoice (r m)) := by
  obtain ⟨k, rfl⟩ := Nat.exists_eq_add_of_le (Nat.le_of_add_right_le hm)
  have hnil : (r (n + k)).sched = [] := by
    rw [sched_of_steps h, List.drop_eq_nil_iff]
    exact Nat.le_of_add_le_add_left hm
  simp [chosen, hnil]

/-- R119: a step that stays enabled and is never taken would leave the default order without a tick, which uses up
work for ever. -/
theorem weaklyFair_of_steps : WeaklyFair r (fun n => chosen (r n)) := by
  intro c hc n hen
  by_contra hno
  obtain ⟨m, hm, hmin⟩ := exists_least_work r (n + (r n).sched.length)
  have hnm : n ≤ m := Nat.le_of_add_right_le hm
  have hchosen : chosen (r m) = some (defaultChoice (r m)) := chosen_after_schedule h hm
  rcases defaultChoice_cases (r m) with htick | hwork
  · have hctick : c = .tick := by
      obtain ⟨hu, hhost⟩ := defaultChoice_eq_tick htick
      rcases choice_cases c with rfl | ⟨line, v, rfl⟩ | rfl | hch
      · rfl
      · simp at hc
      · exact nomatch hhost.symm.trans ((enabled_host_iff _).1 (hen m hnm)).2
      · exact nomatch hu.symm.trans (urgent_of_handler hch (hen m hnm))
    exact hno ⟨m, hnm, hchosen.trans (congrArg some (htick.trans hctick.symm))⟩
  · obtain ⟨l, hmv⟩ := (isRun_of_steps h).taken hchosen
    have hlt := workLeft_lt_of_moves hmv (fault_none_of_steps h (m + 1)) hwork
    rw [workLeft_withSched] at hlt
    exact absurd hlt (Nat.not_lt_of_le (hmin (m + 1) (Nat.le_succ_of_le hm)))

end

/-- Settles O52: R110's relation step by step, and fairness from the default order. -/
theorem machineRunsAreFair : Obligations.MachineRunsAreFair := fun _ h =>
  ⟨isRun_of_steps h, weaklyFair_of_steps h, fun n _ hc => hostFirst_of_chosen (h n) hc⟩

end Sys2Proof.Machine
end

section
/-! Proofs about the ring buffer (41_ringbuffer.md): what a push and a READ do case by case (R130 to R134), how they
change the bytes in the ring, and the capacity and FIFO laws (R135, R136). -/

namespace Sys2Proof.Machine

open Sys2Proof

section

variable {s : State}

theorem ringFull_eq_true : ringFull s = true ↔ addC s.cfg s.head 1 = s.tail := beq_iff_eq

theorem ringEmpty_eq_true : ringEmpty s = true ↔ s.head = s.tail := beq_iff_eq

/-! ### Push (R130) -/

/-- R130, the state after an accepted push. -/
def State.pushed (b : Byte) (s : State) : State :=
  { s with buf := Memory.write s.head b s.buf, head := addC s.cfg s.head 1 }

theorem exec_push_of_full (hf : ringFull s = true) (b : Byte) : exec (.push b) s = .next s := if_pos hf

theorem exec_push_of_room (hf : ringFull s = false) (hh : s.head < s.cfg.ringCap) (b : Byte) :
    exec (.push b) s = .next (s.pushed b) :=
  (if_neg (Bool.eq_false_iff.1 hf)).trans (if_pos hh)

theorem exec_push_out_of_range (hf : ringFull s = false) (hh : s.cfg.ringCap ≤ s.head) (b : Byte) :
    exec (.push b) s = .fault (.slotOutOfRange s.head) :=
  (if_neg (Bool.eq_false_iff.1 hf)).trans (if_neg (Nat.not_lt_of_le hh))

/-! ### Taking a byte (R131, R132) -/

/-- R131, R132: the state with the byte at TAIL taken. -/
def State.taken (s : State) : State := { s with tail := addC s.cfg s.tail 1 }

section

variable {k : Byte → State → Out}

theorem takeByte_of_byte (ht : s.tail < s.cfg.ringCap) {b : Byte} (hb : Memory.read s.tail s.buf = some b) :
    takeByte s k = k b s.taken := by
  simp [takeByte, memRead, ht, hb, State.taken]

theorem takeByte_of_no_value (ht : s.tail < s.cfg.ringCap) (hb : Memory.read s.tail s.buf = none) :
    takeByte s k = .fault (.slotNoValue s.tail) := by
  simp [takeByte, memRead, ht, hb]

theorem takeByte_out_of_range (ht : s.cfg.ringCap ≤ s.tail) : takeByte s k = .fault (.slotOutOfRange s.tail) :=
  if_neg (Nat.not_lt_of_le ht)

end

theorem exec_read_of_empty (he : ringEmpty s = true) : exec .read s = .next (s.log 0x0000#16).advance := if_pos he

theorem exec_read_of_not_empty (he : ringEmpty s = false) :
    exec .read s = takeByte s fun b s' => .next (s'.log (presentWord b)).advance := if_neg (Bool.eq_false_iff.1 he)

theorem exec_readUnchecked_of_not_empty (he : ringEmpty s = false) :
    exec .readUnchecked s = takeByte s fun b s' => .next (s'.log (zext16 b)).advance :=
  if_neg (Bool.eq_false_iff.1 he)

/-! ### The ring in order: its count, and what each operation makes of it -/

/-- R9: the count fits the 16-bit result word of AVAILABLE. -/
theorem Config.ringCap_lt_of_legal {c : Config} (h : c.legal = true) : c.ringCap < 2 ^ 16 := by
  obtain ⟨k, -, hk, e⟩ := Config.ringCap_of_legal h
  rw [e]
  exact Nat.pow_lt_pow_right Nat.one_lt_two (Nat.lt_succ_of_le hk)

namespace State.RingOk

/-- R15: the remainder of the count is not negative. -/
theorem ringCount_int (h : s.RingOk) : (ringCount s : Int) = ((s.head : Int) - s.tail) % s.cfg.ringCap :=
  Int.toNat_of_nonneg (Int.emod_nonneg _ (Int.ofNat_ne_zero.2 h.ringCap_pos.ne'))

theorem toNat_countWord (h : s.RingOk) : (countWord (ringCount s)).toNat = ringCount s :=
  Nat.mod_eq_of_lt (h.ringCount_lt.trans (Config.ringCap_lt_of_legal h.legal))

theorem ringCount_eq_zero (h : s.RingOk) : ringCount s = 0 ↔ s.head = s.tail := by
  have hh := h.headRange
  have ht := h.tailRange
  rw [h.ringCount_eq]
  split <;> omega

/-- R130, R133: the ring is full when one slot is left free. -/
theorem ringFull_iff (h : s.RingOk) : ringFull s = true ↔ ringCount s + 1 = s.cfg.ringCap := by
  have hh := h.headRange
  have ht := h.tailRange
  have h2 := Config.two_le_ringCap h.legal
  rw [ringFull_eq_true, addC_eq hh h2, h.ringCount_eq]
  split_ifs <;> omega

theorem pushed (h : s.RingOk) (hf : ringFull s = false) (b : Byte) : (s.pushed b).RingOk := h.push hf b

theorem taken (h : s.RingOk) (he : ringEmpty s = false) : s.taken.RingOk := h.take he

/-- A completed command keeps the ring in order (R219). -/
theorem logged (h : s.RingOk) (w : Word) : ((s.log w).advance).RingOk := { h with }

theorem ringCount_pushed (h : s.RingOk) (hf : ringFull s = false) (b : Byte) :
    ringCount (s.pushed b) = ringCount s + 1 := h.subC_addC_head hf

theorem ringCount_taken (h : s.RingOk) (he : ringEmpty s = false) : ringCount s.taken + 1 = ringCount s :=
  h.subC_addC_tail he

/-- R130: an accepted push moves HEAD, as a ring has two slots or more. -/
theorem head_pushed_ne (h : s.RingOk) (b : Byte) : (s.pushed b).head ≠ s.head := by
  have hh := h.headRange
  have h2 := Config.two_le_ringCap h.legal
  show addC s.cfg s.head 1 ≠ s.head
  rw [addC_eq hh h2]
  split <;> omega

/-- R131: READ of a ring that is not empty returns the byte at TAIL. -/
theorem exec_read (h : s.RingOk) (he : ringEmpty s = false) :
    ∃ b, Memory.read s.tail s.buf = some b ∧ exec .read s = .next (s.taken.log (presentWord b)).advance := by
  obtain ⟨b, hb⟩ := Option.ne_none_iff_exists'.1 (h.read_tail_ne_none he)
  exact ⟨b, hb, (exec_read_of_not_empty he).trans (takeByte_of_byte h.tailRange hb)⟩

/-! ### The bytes in the ring -/

/-- R130: an accepted byte is the newest. -/
theorem ringContents_pushed (h : s.RingOk) (hf : ringFull s = false) (b : Byte) :
    ringContents (s.pushed b) = ringContents s ++ [b] := by
  have hold : ∀ k ∈ List.range (ringCount s),
      Memory.read (addC s.cfg s.tail k) (s.pushed b).buf = Memory.read (addC s.cfg s.tail k) s.buf :=
    fun k hk => Memory.read_write_other (h.addC_ne_head (List.mem_range.1 hk)) b _
  have hnew : Memory.read (addC s.cfg s.tail (ringCount s)) (s.pushed b).buf = some b := by
    rw [h.addC_ringCount]
    exact Memory.read_write_same _ _ _
  calc ringContents (s.pushed b)
      = (List.range (ringCount s + 1)).filterMap fun k => Memory.read (addC s.cfg s.tail k) (s.pushed b).buf := by
        rw [← h.ringCount_pushed hf b]
        rfl
    _ = ringContents s ++ [b] := by
        rw [List.range_succ, List.filterMap_append, List.filterMap_congr hold]
        simp [hnew, ringContents]

/-- R131: the byte taken is the oldest. -/
theorem ringContents_taken (h : s.RingOk) (he : ringEmpty s = false) {b : Byte}
    (hb : Memory.read s.tail s.buf = some b) : ringContents s = b :: ringContents s.taken := by
  have hzero : addC s.cfg s.tail 0 = s.tail := Nat.mod_eq_of_lt h.tailRange
  have hsucc : ∀ k, addC s.cfg s.tail (k + 1) = addC s.cfg s.taken.tail k := fun k => by
    rw [State.taken, addC_addC, Nat.add_comm]
  rw [ringContents, ← h.ringCount_taken he, List.range_succ_eq_map, List.filterMap_cons, hzero, hb,
    List.filterMap_map]
  simp only [Function.comp_def, Nat.succ_eq_add_one, hsucc]
  rfl

end State.RingOk

end

/-! ### The results of the operations -/

/-- Settles O35: full, room, and a HEAD out of range. -/
theorem pushResult : Obligations.PushResult := fun _ b =>
  ⟨fun hf => exec_push_of_full (ringFull_eq_true.2 hf) b,
    fun hf hh => ⟨_, exec_push_of_room (ringFull_eq_false.2 hf) hh b, Memory.read_write_same _ _ _,
      fun _ ha => Memory.read_write_other ha b _⟩,
    fun hf hh => exec_push_out_of_range (ringFull_eq_false.2 hf) hh b⟩

/-- Settles O36: empty, and the three cases of the slot at TAIL. -/
theorem readResult : Obligations.ReadResult := fun _ =>
  ⟨fun he => exec_read_of_empty (ringEmpty_eq_true.2 he),
    fun he ht =>
      have e := exec_read_of_not_empty (ringEmpty_eq_false.2 he)
      ⟨fun _ hb => e.trans (takeByte_of_byte ht hb), fun hb => e.trans (takeByte_of_no_value ht hb)⟩,
    fun he ht => (exec_read_of_not_empty (ringEmpty_eq_false.2 he)).trans (takeByte_out_of_range ht)⟩

/-- Settles O37: the fault on an empty ring, and the three cases of the slot at TAIL. -/
theorem readUncheckedResult : Obligations.ReadUncheckedResult := fun _ =>
  ⟨fun he _ hw => (execReadUnchecked_of_empty he).trans (raiseFault_of_word hw _),
    fun he ht =>
      have e := exec_readUnchecked_of_not_empty (ringEmpty_eq_false.2 he)
      ⟨fun _ hb => e.trans (takeByte_of_byte ht hb), fun hb => e.trans (takeByte_of_no_value ht hb)⟩,
    fun he ht => (exec_readUnchecked_of_not_empty (ringEmpty_eq_false.2 he)).trans (takeByte_out_of_range ht)⟩

theorem emptyWord_ringEmpty (s : State) :
    emptyWord (ringEmpty s) = if s.head = s.tail then 0x0001#16 else 0x0000#16 := by
  simp only [emptyWord, ringEmpty_eq_true]

/-- Settles O38: the word of AVAILABLE is the count, which fits 16 bits. -/
theorem ringCountResults : Obligations.RingCountResults := by
  refine fun s => ⟨⟨countWord (ringCount s), rfl, fun h => ?_⟩, ?_⟩
  · rw [h.toNat_countWord]
    exact ⟨h.ringCount_int, Nat.le_sub_one_of_lt h.ringCount_lt⟩
  · rw [← emptyWord_ringEmpty]
    rfl

/-! ### Interleavings of pushes and READs -/

section

variable {s t u : State} {b : Byte} {ops : List RingOp} {acc : List Byte}

theorem ringRun_push_of_full (hf : ringFull s = true) (h : ringRun ops s = some (acc, t)) :
    ringRun (.push b :: ops) s = some (acc, t) := by
  simp [ringRun, exec_push_of_full hf, h, hf]

theorem ringRun_push_of_room (hf : ringFull s = false) (hh : s.head < s.cfg.ringCap)
    (h : ringRun ops (s.pushed b) = some (acc, t)) : ringRun (.push b :: ops) s = some (b :: acc, t) := by
  simp [ringRun, exec_push_of_room hf hh, h, hf]

theorem ringRun_read (hr : exec .read s = .next u) : ringRun (.read :: ops) s = ringRun ops u := by
  simp [ringRun, hr]

end

/-- R136: an empty READ returns no byte. -/
theorem readResults_empty (log : List Word) : readResults (0x0000#16 :: log) = readResults log := by
  simp [readResults]

/-- R96: the result word of a byte is not that of an empty ring. -/
theorem presentWord_ne_zero (b : Byte) : presentWord b ≠ 0x0000#16 := by
  intro h
  have hbit := congrArg (BitVec.getLsbD · 8) h
  simp [presentWord, zext16] at hbit

/-- R96: the byte without bit 8. -/
theorem setWidth_presentWord (b : Byte) : (presentWord b).setWidth 8 = b := by
  rw [presentWord, zext16, BitVec.setWidth_or, BitVec.setWidth_setWidth_of_le _ (by decide), BitVec.setWidth_eq]
  exact BitVec.zero_or

theorem readResults_present (b : Byte) (log : List Word) :
    readResults (presentWord b :: log) = b :: readResults log := by
  simp [readResults, presentWord_ne_zero, setWidth_presentWord]

/-- Settles O40, by induction over the interleaving: an accepted push adds the newest byte, a READ takes the oldest. -/
theorem fifoLaw : Obligations.FifoLaw := by
  intro s ops
  induction ops generalizing s with
  | nil => exact fun _ => ⟨[], s, [], rfl, by simp, by simp [readResults]⟩
  | cons op ops ih =>
    intro h
    cases op with
    | push b =>
      cases hf : ringFull s with
      | true =>
        obtain ⟨acc, t, log, hrun, hlog, hfifo⟩ := ih s h
        exact ⟨acc, t, log, ringRun_push_of_full hf hrun, hlog, hfifo⟩
      | false =>
        obtain ⟨acc, t, log, hrun, hlog, hfifo⟩ := ih (s.pushed b) (h.pushed hf b)
        refine ⟨b :: acc, t, log, ringRun_push_of_room hf h.headRange hrun, hlog, ?_⟩
        rw [← hfifo, h.ringContents_pushed hf, List.append_assoc, List.singleton_append]
    | read =>
      cases he : ringEmpty s with
      | true =>
        obtain ⟨acc, t, log, hrun, hlog, hfifo⟩ := ih _ (h.logged 0x0000#16)
        refine ⟨acc, t, 0x0000#16 :: log, (ringRun_read (exec_read_of_empty he)).trans hrun, ?_, ?_⟩
        · simpa using hlog
        · rw [readResults_empty]
          exact hfifo
      | false =>
        obtain ⟨b, hb, hread⟩ := h.exec_read he
        obtain ⟨acc, t, log, hrun, hlog, hfifo⟩ := ih _ ((h.taken he).logged (presentWord b))
        refine ⟨acc, t, presentWord b :: log, (ringRun_read hread).trans hrun, ?_, ?_⟩
        · simpa [State.taken] using hlog
        · rw [h.ringContents_taken he hb, readResults_present]
          exact congrArg (b :: ·) hfifo

/-! ### Capacity -/

/-- R130: as many pushes as there is room for are all accepted, and each counts one byte more. -/
theorem ringRun_pushes {s : State} (h : s.RingOk) {bs : List Byte} (hroom : ringCount s + bs.length < s.cfg.ringCap) :
    ∃ t, ringRun (bs.map .push) s = some (bs, t) ∧ t.RingOk ∧ t.cfg = s.cfg
      ∧ ringCount t = ringCount s + bs.length := by
  induction bs generalizing s with
  | nil => exact ⟨s, rfl, h, rfl, rfl⟩
  | cons b bs ih =>
    rw [List.length_cons] at hroom
    have hf : ringFull s = false := Bool.eq_false_iff.2 (mt h.ringFull_iff.1 (by omega))
    have hcount := h.ringCount_pushed hf b
    obtain ⟨t, hrun, ht, hcfg, hc⟩ :=
      ih (h.pushed hf b) (show ringCount (s.pushed b) + bs.length < s.cfg.ringCap by omega)
    exact ⟨t, ringRun_push_of_room hf h.headRange hrun, ht, hcfg, by rw [hc, hcount, List.length_cons]; omega⟩

/-- R135: a READ of a ring that is not empty makes room, so the next push is accepted. -/
theorem State.RingOk.push_after_read {t : State} (h : t.RingOk) (he : ringEmpty t = false) :
    ∃ u, exec .read t = .next u ∧ ∀ b, ∃ v, exec (.push b) u = .next v ∧ v.head ≠ u.head
      ∧ Memory.read u.head v.buf = some b := by
  obtain ⟨c, -, hread⟩ := h.exec_read he
  have hu : ((t.taken.log (presentWord c)).advance).RingOk := (h.taken he).logged _
  have hcount : ringCount (t.taken.log (presentWord c)).advance + 1 = ringCount t := h.ringCount_taken he
  have hlt : ringCount t < (t.taken.log (presentWord c)).advance.cfg.ringCap := h.ringCount_lt
  have hf : ringFull (t.taken.log (presentWord c)).advance = false :=
    Bool.eq_false_iff.2 (mt hu.ringFull_iff.1 (by omega))
  exact ⟨_, hread, fun b => ⟨_, exec_push_of_room hf hu.headRange b, hu.head_pushed_ne b,
    Memory.read_write_same _ _ _⟩⟩

/-- Settles O39: the pushes fill the ring to RING_CAP − 1, where it is full and not empty. -/
theorem capacityLaw : Obligations.CapacityLaw := by
  intro s bs h hempty hlen
  have h2 := Config.two_le_ringCap h.legal
  have hzero : ringCount s = 0 := h.ringCount_eq_zero.2 hempty
  obtain ⟨t, hrun, ht, hcfg, hcount⟩ := ringRun_pushes h (bs := bs) (by omega)
  have hcap : ringCount t = s.cfg.ringCap - 1 := by rw [hcount, hzero, hlen, Nat.zero_add]
  have hfull : ringFull t = true := ht.ringFull_iff.2 (by rw [hcfg]; omega)
  have he : ringEmpty t = false := ringEmpty_eq_false.2 (mt ht.ringCount_eq_zero.2 (by omega))
  refine ⟨t, hrun, ?_, fun b => exec_push_of_full hfull b, ht.push_after_read he⟩
  rw [← hcap]
  rfl

end Sys2Proof.Machine
end

section
/-! Proofs about masked events and the host (42_transmit.md R155, 43_receive.md R177, 90_conflicts.md C14): where the
host has a step no event of the TX or the RX engine is pending, so no EINT lets a handler run late. -/

namespace Sys2Proof.Machine

open Sys2Proof

/-! ### Events pending for the TX and the RX engine -/

/-- An event of the TX or the RX engine is pending for its handler, whether or not GIE masks it. -/
def enginePending (s : State) : Bool := (s.txIe && s.ifg0) || (s.rxIe && s.ifg1)

section

variable {s t : State}

theorem enginePending_iff :
    enginePending s = true ↔ (s.txIe = true ∧ s.ifg0 = true) ∨ (s.rxIe = true ∧ s.ifg1 = true) := by
  simp [enginePending]

theorem enginePending_eq_false :
    enginePending s = false ↔ (s.txIe && s.ifg0) = false ∧ (s.rxIe && s.ifg1) = false := Bool.or_eq_false_iff

theorem noLateRun_of_gie (h : s.gie = true) : s.NoLateRun := fun hg => nomatch h.symm.trans hg

theorem noLateRun_of_not_pending (h : enginePending s = false) : s.NoLateRun := fun _ hp =>
  nomatch h.symm.trans (enginePending_iff.2 hp)

/-- With GIE 1 a pending event of an engine makes its handler urgent. -/
theorem not_pending_of_gie (hg : s.gie = true) (hu : urgent s = false) : enginePending s = false := by
  obtain ⟨htx, -, hcap, hsmp, -⟩ := (urgent_eq_false s).1 hu
  refine enginePending_eq_false.2 ⟨?_, ?_⟩
  · simpa [txhEnabled, hg, Bool.and_comm] using htx
  · cases hc : s.cap1 with
    | true => simpa [rxcaphEnabled, hg, hc, Bool.and_comm] using hcap
    | false => simpa [rxsmphEnabled, hg, hc, Bool.and_comm] using hsmp

/-- Where the host has a step no event of an engine is pending: unmasked it would be urgent, and masked it would be a
late run. -/
theorem State.NoLateRun.not_pending_of_host (h : s.NoLateRun) (hh : hostEnabled s = true) :
    enginePending s = false := by
  cases hg : s.gie with
  | true => exact not_pending_of_gie hg (hostEnabled_cases hh).1
  | false => exact Bool.eq_false_iff.2 fun hp => nomatch hh.symm.trans (h hg (enginePending_iff.1 hp))

/-- R116: with no event of an engine pending, only HOLDH and CALH can make a state urgent, whatever GIE is. -/
theorem urgent_of_not_pending (h : enginePending s = false) :
    urgent s = ((s.ifg0 && s.pstate == .holding) || calhEnabled s) := by
  obtain ⟨htx, hrx⟩ := enginePending_eq_false.1 h
  have htxh : txhEnabled s = false := by simp [txhEnabled, Bool.and_comm s.ifg0, htx]
  have hcap : rxcaphEnabled s = false := by simp [rxcaphEnabled, Bool.and_comm s.ifg1, hrx]
  have hsmp : rxsmphEnabled s = false := by simp [rxsmphEnabled, Bool.and_comm s.ifg1, hrx]
  simp [urgent, holdhEnabled, htxh, hcap, hsmp]

/-! ### The host raises no event of an engine -/

/-- R91: no command makes an event pending: those that enable an engine clear its flag. -/
theorem command_keeps_not_pending {i : Instr} (hi : i.WellFormed = true) (h : exec i s = .next t)
    (hp : enginePending s = false) : enginePending t = false := by
  obtain ⟨htx, hrx⟩ := enginePending_eq_false.1 hp
  cases i with
  | calibrate =>
    rcases execCalibrate_next h with ⟨-, _, -, rfl⟩ | ⟨-, -, rfl⟩ | ⟨-, -, rfl⟩
    · exact hp
    · exact enginePending_eq_false.2 ⟨htx, rfl⟩
    · exact hp
  | init =>
    rcases execInit_next h with ⟨-, _, -, rfl⟩ | ⟨-, -, _, -, rfl⟩ | ⟨-, -, rfl⟩
    · exact hp
    · exact hp
    · rfl
  | shutdown =>
    rcases execShutdown_next h with ⟨-, _, -, rfl⟩ | ⟨-, -, rfl⟩ | ⟨-, -, rfl⟩
    · exact hp
    · exact hp
    · exact enginePending_eq_false.2 ⟨Bool.and_false _, hrx⟩
  | send b =>
    rcases execSend_next h with ⟨-, _, -, rfl⟩ | ⟨-, -, rfl⟩ | ⟨-, -, rfl⟩
    · exact hp
    · exact hp
    · exact enginePending_eq_false.2 ⟨rfl, hrx⟩
  | read => rcases execRead_next h with ⟨-, rfl⟩ | ⟨-, _, -, -, rfl⟩ <;> exact hp
  | readUnchecked => rcases execReadUnchecked_next h with ⟨-, _, -, rfl⟩ | ⟨-, _, -, -, rfl⟩ <;> exact hp
  | available | isEmpty | status | readTuning | eint | dint =>
    cases h
    exact hp
  | tick | env | push | txh | rxcaph | rxsmph | calh | shutdownStart | holdh | shutdownComplete | calibrateComplete =>
    cases hi

theorem host_keeps_not_pending (h : Moves .host s t) (hp : enginePending s = false) : enginePending t = false := by
  obtain ⟨-, w, -, hc⟩ := hostStep_cases ((enabled_host_iff s).1 h.1).2 h.2
  rcases hc with ⟨-, -, -, rfl⟩ | ⟨-, -, i, hd, he⟩ | ⟨-, -, he⟩ | ⟨-, -, he⟩
  · exact hp
  · exact command_keeps_not_pending (decode_wellFormed hd) he hp
  · rcases execShutdownComplete_next he with ⟨-, rfl⟩ | ⟨-, rfl⟩ <;> exact hp
  · rcases execCalibrateComplete_next he with ⟨-, rfl⟩ | ⟨-, rfl⟩ <;> exact hp

/-- R214: of all the steps of the table only EINT sets GIE. -/
theorem eint_of_moves_sets_gie {c : Choice} (h : Moves c s t) (hs : s.gie = false) (ht : t.gie = true) :
    c = .host ∧ t = ({ s with gie := true } : State).advance := by
  have hne : t.gie ≠ s.gie := by simp [hs, ht]
  have hc : c = .host := by
    by_contra hc
    exact hne (moves_keeps_host h hc).2.1
  refine ⟨hc, ?_⟩
  rcases moves_exec h with ⟨i, he, -⟩ | ⟨r, rfl⟩
  · obtain ⟨-, -, -, -, -, -, hgie, -⟩ := elementWriters i s t he
    rcases hgie hne with rfl | rfl <;> cases he
    · rfl
    · cases ht
  · exact absurd rfl hne

/-! ### The steps of the other agents -/

/-- R118: a tick gives the host no step that it did not have. -/
theorem hostEnabled_tickBody (hu : urgent s = false) (hh : hostEnabled s = false) :
    hostEnabled (tickBody s) = false := by
  rw [Bool.eq_false_iff, Ne, hostEnabled_iff] at hh ⊢
  obtain ⟨_, _, _, _, _, _, e, -⟩ := tickBody_frame s
  rw [e]
  exact fun ⟨_, hw⟩ => hh ⟨hu, hw⟩

/-- R46, R47: an inactive port has both engines off. -/
theorem State.Inv.not_pending_of_inactive (h : s.Inv) (hp : s.pstate = .inactive) : enginePending s = false := by
  have htx : s.txIe = false := Bool.eq_false_iff.2 fun ht => nomatch hp.symm.trans (h.txBusy ht).1
  have hrx : s.rxIe = false := (h.portClosed hp).2.1
  simp [enginePending, htx, hrx]

/-- R191, R213: HOLDH and CALH, the handlers that GIE does not gate, leave the port inactive. -/
theorem inactive_of_ungated_handler {c : Choice} (hinv : s.Inv) (hc : c = .holdh ∨ c = .calh) (h : Moves c s t) :
    t.pstate = .inactive := by
  obtain ⟨hen, ht⟩ := h
  rcases hc with rfl | rfl
  · rcases execHoldh_next ht with ⟨-, rfl⟩ | ⟨hno, -⟩
    · rfl
    · simp [enabled, hno] at hen
  · have hp := hinv.inactive_of_calh hen
    rcases execCalh_next ht with ⟨-, rfl⟩ | ⟨-, rfl⟩
    · rcases calCapture_cases s with ⟨-, e⟩ | ⟨-, _, _, _, e⟩ | ⟨-, _, _, _, _, -, e⟩ <;> exact e ▸ hp
    · exact hp

/-- R152, R171, R172: the engines' handlers run with GIE 1 only, and the others leave both engines off. -/
theorem handler_leaves_nothing_masked {c : Choice} (hinv : s.Inv) (hc : c ∈ handlers) (h : Moves c s t) :
    t.gie = true ∨ enginePending t = false := by
  have hkeep : t.gie = s.gie := (moves_keeps_host h fun e => by simp [e, handlers] at hc).2.1
  have hclosed : t.pstate = .inactive → enginePending t = false := (moves_keeps_inv hinv h).not_pending_of_inactive
  cases c with
  | tick | env | host => simp [handlers] at hc
  | txh =>
    obtain ⟨-, -, -, hg⟩ := (enabled_txh_iff s).1 h.1
    exact .inl (hkeep.trans hg)
  | rxcaph =>
    obtain ⟨-, -, -, hg, -⟩ := (enabled_rxcaph_iff s).1 h.1
    exact .inl (hkeep.trans hg)
  | rxsmph =>
    obtain ⟨-, -, -, hg, -⟩ := (enabled_rxsmph_iff s).1 h.1
    exact .inl (hkeep.trans hg)
  | holdh => exact .inr (hclosed (inactive_of_ungated_handler hinv (.inl rfl) h))
  | calh => exact .inr (hclosed (inactive_of_ungated_handler hinv (.inr rfl) h))

/-! ### No late run -/

/-- R155, C14: every step of the table keeps it, if a tick is taken only when the host has no step. -/
theorem State.NoLateRun.moves {c : Choice} (hinv : s.Inv) (hl : s.NoLateRun) (hfirst : hostFirst s c)
    (h : Moves c s t) : t.NoLateRun := by
  rcases choice_cases c with rfl | ⟨line, v, rfl⟩ | rfl | hc
  · have hu : urgent s = false := ((enabled_tick_iff s).1 h.1).2
    cases (execTick_of_not_urgent hu).symm.trans h.2
    exact fun _ _ => hostEnabled_tickBody hu (hfirst rfl)
  · obtain ⟨_, _, rfl⟩ := moves_env h
    exact hl
  · have hp := hl.not_pending_of_host ((enabled_host_iff s).1 h.1).2
    exact noLateRun_of_not_pending (host_keeps_not_pending h hp)
  · exact (handler_leaves_nothing_masked hinv hc h).elim noLateRun_of_gie noLateRun_of_not_pending

/-- R214: with no event of an engine pending, the GIE that EINT sets makes no handler urgent. -/
theorem State.NoLateRun.not_urgent_of_eint {c : Choice} (hl : s.NoLateRun) (h : Moves c s t) (hs : s.gie = false)
    (ht : t.gie = true) : urgent t = false := by
  obtain ⟨rfl, rfl⟩ := eint_of_moves_sets_gie h hs ht
  have hh : hostEnabled s = true := ((enabled_host_iff s).1 h.1).2
  have hp : enginePending s = false := hl.not_pending_of_host hh
  calc urgent ({ s with gie := true } : State).advance
      = ((s.ifg0 && s.pstate == .holding) || calhEnabled s) := urgent_of_not_pending hp
    _ = urgent s := (urgent_of_not_pending hp).symm
    _ = false := (hostEnabled_cases hh).1

end

/-- Settles O53: at launch no event is pending, and a step is a move that obeys C14 or consumes an entry of the
schedule. -/
theorem lateRunNeverHappens : Obligations.LateRunNeverHappens := by
  refine ⟨fun c p r f => noLateRun_of_not_pending rfl, fun s t hinv hl hs => ?_⟩
  have hinv' : (s.withSched s.sched.tail).Inv := hinv.withSched _
  have hl' : (s.withSched s.sched.tail).NoLateRun := hl
  rcases step_chosen hs with ⟨c, -, hm, ht⟩ | ⟨-, rfl⟩
  · obtain ⟨hfirst, hmv⟩ := moves_of_mayTake hm ht
    exact ⟨hl'.moves hinv' hfirst hmv, hl'.not_urgent_of_eint hmv⟩
  · exact ⟨hl', fun h0 h1 => nomatch h0.symm.trans h1⟩

end Sys2Proof.Machine
end

section
/-! Proofs about the transmitter (42_transmit.md): SEND, the frame image and TXH (R150 to R152), and the waveform of a
frame (R153, R154), bit period by bit period. -/

namespace Sys2Proof.Machine

open Sys2Proof

/-! ### SEND (R150) and TXH (R152) -/

theorem exec_send_of_idle {s : State} (hp : s.pstate = .active) (ht : s.txIe = false) (b : Byte) :
    exec (.send b) s = .next (startFrame b s).advance := by
  simp [exec, execSend, hp, ht]

theorem exec_txh_of_enabled {s : State} (h : txhEnabled s = true) : exec .txh s = .next (txShift s) := if_pos h

theorem txhEnabled_iff (s : State) : txhEnabled s = true ↔ s.ifg0 = true ∧ s.txIe = true ∧ s.gie = true := by
  simp [txhEnabled, and_assoc]

/-- Settles O29: SEND's three paths. -/
theorem sendResult : Obligations.SendResult := fun _ b =>
  ⟨fun hp ht => exec_send_of_idle hp ht b, fun hp ht => exec_of_held (by simp [commandHeld, hp, ht]),
    fun hp _ hw => (execSend_of_not_active hp b).trans (raiseFault_of_word hw _)⟩

/-- Shifting out the last bit that is set leaves 0. -/
theorem shiftRight_one_eq_zero_iff (x : BitVec 16) : x >>> 1 = 0 ↔ x.toNat / 2 = 0 := by
  rw [← BitVec.toNat_inj, BitVec.toNat_ushiftRight, Nat.shiftRight_eq_div_pow]
  rfl

/-- Settles O31: TXH is enabled, and ends the frame as the number in TXSR says. -/
theorem txhResult : Obligations.TxhResult := by
  intro s hi ht hg
  rw [exec_txh_of_enabled ((txhEnabled_iff s).2 ⟨hi, ht, hg⟩)]
  simp only [txShift, shiftRight_one_eq_zero_iff, ht]
  rfl

/-! ### The frame image (R151) -/

/-- R151: the stop bits, above the eight bits of the byte. -/
theorem getLsbD_stopBits {n : Nat} (h : n = 1 ∨ n = 2) (k : Nat) :
    (if n = 2 then 0x0300#16 else 0x0100#16).getLsbD k = decide (8 ≤ k ∧ k < 8 + n) := by
  by_cases hk : k < 16
  · rcases h with rfl | rfl <;> revert k <;> decide
  · rw [BitVec.getLsbD_of_ge _ _ (Nat.le_of_not_lt hk), eq_comm, decide_eq_false_iff_not]
    omega

/-- R151: above the start bit, the byte's bits and then the stop bits. -/
theorem getLsbD_frame_succ {c : Config} (h : c.stopBits = 1 ∨ c.stopBits = 2) (b : Byte) (k : Nat) :
    (frame c b).getLsbD (k + 1) = (decide (8 ≤ k ∧ k < 8 + c.stopBits) || b.getLsbD k) := by
  rw [frame, BitVec.getLsbD_shiftLeft, BitVec.getLsbD_or, getLsbD_stopBits h, zext16, BitVec.getLsbD_setWidth]
  by_cases hk : k + 1 < 16
  · simp [hk, Nat.lt_of_succ_lt hk]
  · have hb : b.getLsbD k = false := BitVec.getLsbD_of_ge _ _ (by omega)
    have hs : ¬(8 ≤ k ∧ k < 8 + c.stopBits) := by omega
    simp [hk, hb, hs]

/-- Settles O30: the start bit is shifted in, and the other bits are those of `getLsbD_frame_succ`. -/
theorem frameBits : Obligations.FrameBits := by
  intro c b h
  refine ⟨by simp [frame], fun i hi => ?_, fun i h9 hi => ?_, fun i hi => ?_⟩
  · rw [getLsbD_frame_succ h, decide_eq_false (by omega), Bool.false_or]
  · obtain ⟨k, rfl⟩ := Nat.exists_eq_add_of_le' (Nat.one_le_of_lt h9)
    rw [getLsbD_frame_succ h, decide_eq_true (by omega), Bool.true_or]
  · obtain ⟨k, rfl⟩ := Nat.exists_eq_add_of_le' (Nat.one_le_of_lt hi)
    rw [getLsbD_frame_succ h, decide_eq_false (by omega), Bool.false_or]
    exact BitVec.getLsbD_of_ge _ _ (by omega)

/-- R151, R153: the frame is used up once its last stop bit is shifted out. -/
theorem frame_shiftRight_eq_zero_iff {c : Config} (h : c.stopBits = 1 ∨ c.stopBits = 2) (b : Byte) (n : Nat) :
    frame c b >>> n = 0 ↔ 8 + c.stopBits < n := by
  obtain ⟨-, -, hstop, habove⟩ := frameBits c b h
  constructor
  · intro hz
    by_contra hn
    have hbit : (frame c b >>> n).getLsbD (8 + c.stopBits - n) = true := by
      rw [BitVec.getLsbD_ushiftRight, Nat.add_sub_cancel' (Nat.le_of_not_lt hn)]
      exact hstop _ (by omega) (Nat.le_refl _)
    simp [hz] at hbit
  · intro hn
    refine BitVec.eq_of_getLsbD_eq fun i _ => ?_
    rw [BitVec.getLsbD_ushiftRight, habove _ (by omega)]
    simp

end Sys2Proof.Machine
end

section
/-! Proofs about the waveform of a frame (42_transmit.md R153, R154), bit period by bit period, in the default order of
steps (notes/assumptions/6.md). -/

namespace Sys2Proof.Machine

open Sys2Proof

/-! ### Several steps in a row -/

theorem steps_add {m n : Nat} {s t : State} (h : steps m s = .next t) : steps (m + n) s = steps n t := by
  induction m generalizing s with
  | zero =>
    cases h
    rw [Nat.zero_add]
  | succ m ih =>
    rw [Nat.succ_add]
    simp only [steps] at h ⊢
    cases hs : step s with
    | next u =>
      rw [hs] at h
      exact ih h
    | fault r => simp [hs] at h
    | refused r => simp [hs] at h

theorem steps_one {s t : State} (h : step s = .next t) : steps 1 s = .next t := by
  simp [steps, h]

/-- With nothing asked of the schedule, a step takes the default choice (notes/assumptions/6.md). -/
theorem step_of_default {s : State} (hl : s.cfg.legal = true) (hf : s.fault = none) (hs : s.sched = []) :
    step s = take (defaultChoice s) s := by
  rw [step_of_legal hl hf, runSchedule, hs]

/-- R118: past its last command the host has no step. -/
theorem hostEnabled_of_no_word {s : State} (h : s.hprog[s.hpc]? = none) : hostEnabled s = false := by
  simp [hostEnabled, hostWord, h]

/-! ### Ticks in which nothing happens until channel 0's compare -/

/-- `k` counting ticks in which nothing happens. -/
def State.elapsed (k : Nat) (s : State) : State :=
  { s with now := s.now + k, tar := (s.tar + k) % 2 ^ s.cfg.timerW }

/-- R170: the receiver waits for a start edge on a line that stays high. -/
structure State.RxQuiet (s : State) : Prop where
  capture : s.cap1 = true
  line : s.ccis1 = .rxd
  edge : s.cm1 = .falling
  high : s.rxdIn = true
  wasHigh : s.prev1 = true
  noFlag : s.ifg1 = false

/-- Channel 0's compare is `d` ticks away, and until then the machine, in its default order, does nothing but tick. -/
structure State.AwaitsCompare (d : Nat) (s : State) : Prop where
  legal : s.cfg.legal = true
  noFault : s.fault = none
  noSched : s.sched = []
  hostIdle : hostEnabled s = false
  counting : s.tmode = .cont
  rxQuiet : s.RxQuiet
  noFlag : s.ifg0 = false
  tarRange : s.tar < 2 ^ s.cfg.timerW
  compare : s.ccr0 = (s.tar + d) % 2 ^ s.cfg.timerW
  inRange : d < 2 ^ s.cfg.timerW

section

variable {s : State}

theorem elapsed_zero (h : s.tar < 2 ^ s.cfg.timerW) : s.elapsed 0 = s := by
  simp [State.elapsed, Nat.mod_eq_of_lt h]

theorem elapsed_elapsed (j k : Nat) (s : State) : (s.elapsed j).elapsed k = s.elapsed (j + k) := by
  simp [State.elapsed, Nat.add_assoc]

theorem tickBody_eq_countTick (h : s.tmode = .cont) :
    tickBody s = { countTick (chan1Input s) { s with now := s.now + 1 } with prev1 := chan1Input s } := by
  unfold tickBody
  split
  · rfl
  · rename_i hstop
    exact nomatch h.symm.trans hstop

/-- R111: the line gives channel 1 no edge. -/
theorem State.RxQuiet.tickChannel1_eq (h : s.RxQuiet) : tickChannel1 true s = s := by
  rw [tickChannel1, if_pos h.capture]
  exact if_neg (by simp [edgeSeen, h.edge])

theorem State.RxQuiet.tickChannel0 (h : s.RxQuiet) : (tickChannel0 s).RxQuiet := by
  unfold Machine.tickChannel0
  split
  · exact { h with }
  · exact h

/-- R111: while the receive line is quiet, a counting tick is channel 0's alone. -/
theorem State.RxQuiet.tickBody_eq (h : s.RxQuiet) (hm : s.tmode = .cont) :
    tickBody s = Machine.tickChannel0 (s.elapsed 1) := by
  have hq : (Machine.tickChannel0 (s.elapsed 1)).RxQuiet := State.RxQuiet.tickChannel0 { h with }
  have hin : chan1Input s = true := by simp [chan1Input, h.line, h.high]
  calc tickBody s
      = { tickChannel1 true (Machine.tickChannel0 (s.elapsed 1)) with prev1 := true } := by
        rw [tickBody_eq_countTick hm, hin]
        rfl
    _ = Machine.tickChannel0 (s.elapsed 1) := by rw [hq.tickChannel1_eq, ← hq.wasHigh]

/-- Without a pending flag no handler is enabled. -/
theorem not_urgent_of_no_flags (h0 : s.ifg0 = false) (h1 : s.ifg1 = false) : urgent s = false := by
  simp [urgent, txhEnabled, holdhEnabled, rxcaphEnabled, rxsmphEnabled, calhEnabled, h0, h1]

namespace State.AwaitsCompare

variable {d k : Nat}

theorem step_eq (h : s.AwaitsCompare d) : step s = .next (tickChannel0 (s.elapsed 1)) := by
  have hu : urgent s = false := not_urgent_of_no_flags h.noFlag h.rxQuiet.noFlag
  have hc : defaultChoice s = .tick := by simp [defaultChoice_of_not_urgent hu, h.hostIdle]
  rw [step_of_default h.legal h.noFault h.noSched, hc, ← h.rxQuiet.tickBody_eq h.counting]
  exact execTick_of_not_urgent hu

/-- R115: the counter meets CCR0 at the last of the `d` ticks only. -/
theorem meets_iff (h : s.AwaitsCompare d) (hk : k ≤ d) : (s.elapsed k).tar = s.ccr0 ↔ k = d := by
  rw [h.compare]
  refine ⟨fun e => ?_, fun e => e ▸ rfl⟩
  exact (Nat.ModEq.add_left_cancel' s.tar e).eq_of_lt_of_lt (Nat.lt_of_le_of_lt hk h.inRange) h.inRange

theorem elapsed (h : s.AwaitsCompare d) (hk : k ≤ d) : (s.elapsed k).AwaitsCompare (d - k) :=
  { h with
    rxQuiet := { h.rxQuiet with }
    tarRange := Nat.mod_lt _ (Nat.two_pow_pos _)
    compare := by
      show s.ccr0 = ((s.tar + k) % 2 ^ s.cfg.timerW + (d - k)) % 2 ^ s.cfg.timerW
      rw [Nat.mod_add_mod, Nat.add_assoc, Nat.add_sub_cancel' hk]
      exact h.compare
    inRange := Nat.lt_of_le_of_lt (Nat.sub_le d k) h.inRange }

/-- Before the compare the machine only ticks. -/
theorem steps_before (h : s.AwaitsCompare d) (hk : k < d) : steps k s = .next (s.elapsed k) := by
  induction k with
  | zero => exact congrArg _ (elapsed_zero h.tarRange).symm
  | succ k ih =>
    have hne : (s.elapsed (k + 1)).tar ≠ (s.elapsed (k + 1)).ccr0 := mt (h.meets_iff hk.le).1 hk.ne
    rw [steps_add (ih (Nat.lt_of_succ_lt hk))]
    refine steps_one ?_
    rw [(h.elapsed (Nat.le_of_succ_le hk.le)).step_eq, elapsed_elapsed, tickChannel0, if_neg hne]

/-- R112, R115: at the last of the `d` ticks channel 0's compare happens. -/
theorem steps_compare (h : s.AwaitsCompare d) (hd : 1 ≤ d) : steps d s = .next (ch0Compare (s.elapsed d)) := by
  obtain ⟨k, rfl⟩ := Nat.exists_eq_add_of_le' hd
  have heq : (s.elapsed (k + 1)).tar = (s.elapsed (k + 1)).ccr0 := (h.meets_iff (Nat.le_refl _)).2 rfl
  rw [steps_add (h.steps_before (Nat.lt_succ_self k))]
  refine steps_one ?_
  rw [(h.elapsed (Nat.le_succ k)).step_eq, elapsed_elapsed, tickChannel0, if_pos heq]

end State.AwaitsCompare

end

/-! ### One bit period -/

/-- The start of a bit period of a port whose host is done: CCR0 is TPB ticks away. -/
structure State.BitStart (s : State) : Prop where
  awaits : s.AwaitsCompare s.cfg.tpb
  gieOn : s.gie = true
  hostDone : s.hprog[s.hpc]? = none

/-- R152, R154: TPB ticks, and the TXH that drives the next bit. TXH overwrites what the compare wrote. -/
def State.nextBit (s : State) : State := txShift (s.elapsed s.cfg.tpb)

/-- R152: TXH runs as soon as channel 0's compare has set its flag. -/
theorem step_of_txhEnabled {s : State} (hl : s.cfg.legal = true) (hf : s.fault = none) (hs : s.sched = [])
    (he : txhEnabled s = true) : step s = .next (txShift s) := by
  have hc : defaultChoice s = .txh := if_pos he
  rw [step_of_default hl hf hs, hc]
  exact exec_txh_of_enabled he

namespace State.BitStart

variable {s : State}

theorem steps_nextBit (h : s.BitStart) (ht : s.txIe = true) : steps (s.cfg.tpb + 1) s = .next s.nextBit := by
  have hw := h.awaits
  have h1 : 1 ≤ s.cfg.tpb := Nat.le_of_succ_le (Config.timer_of_legal hw.legal).2.2.1
  rw [steps_add (hw.steps_compare h1)]
  exact steps_one (step_of_txhEnabled (s := ch0Compare (s.elapsed s.cfg.tpb)) hw.legal hw.noFault hw.noSched
    ((txhEnabled_iff _).2 ⟨rfl, ht, h.gieOn⟩))

/-- R152: TXH sets CCR0 one bit period past the compare that has just happened. -/
theorem nextBit (h : s.BitStart) : s.nextBit.BitStart where
  awaits :=
    have hw := h.awaits
    { hw with
      hostIdle := hostEnabled_of_no_word h.hostDone
      rxQuiet := { hw.rxQuiet with }
      noFlag := rfl
      tarRange := Nat.mod_lt _ (Nat.two_pow_pos _)
      compare := congrArg (fun x => (x + s.cfg.tpb) % 2 ^ s.cfg.timerW) hw.compare }
  gieOn := h.gieOn
  hostDone := h.hostDone

end State.BitStart

/-! ### A frame -/

/-- R153, R154: `t` is the start of the bit period that follows the first `n` bits of a frame of `b`, whose SEND was
taken in `s`. -/
structure FrameAt (s : State) (b : Byte) (n : Nat) (t : State) : Prop where
  start : t.BitStart
  cfg : t.cfg = s.cfg
  now : t.now = s.now + n * s.cfg.tpb
  tar : t.tar = (s.tar + n * s.cfg.tpb) % 2 ^ s.cfg.timerW
  txsr : t.txsr = frame s.cfg b >>> n
  busy : t.txIe = true ↔ n ≤ 8 + s.cfg.stopBits

section

variable {s t : State} {b : Byte} {n : Nat}

theorem FrameAt.stopBits (h : FrameAt s b n t) : s.cfg.stopBits = 1 ∨ s.cfg.stopBits = 2 := by
  obtain ⟨-, -, -, -, -, hstop, -⟩ := (Config.legal_iff _).1 h.start.awaits.legal
  rwa [h.cfg] at hstop

/-- R153: the frame goes on until its last stop bit is shifted out. -/
theorem FrameAt.next (h : FrameAt s b n t) : FrameAt s b (n + 1) t.nextBit where
  start := h.start.nextBit
  cfg := h.cfg
  now := by
    show t.now + t.cfg.tpb = _
    rw [h.now, h.cfg, Nat.succ_mul, Nat.add_assoc]
  tar := by
    show (t.tar + t.cfg.tpb) % 2 ^ t.cfg.timerW = _
    rw [h.tar, h.cfg, Nat.mod_add_mod, Nat.succ_mul, Nat.add_assoc]
  txsr := by
    show t.txsr >>> 1 = _
    rw [h.txsr, BitVec.shiftRight_add]
  busy := by
    show (if t.txsr >>> 1 = 0 then false else t.txIe) = true ↔ _
    have hz := frame_shiftRight_eq_zero_iff h.stopBits b (n + 1)
    rw [h.txsr, ← BitVec.shiftRight_add]
    split
    · rename_i hzero
      have hover : ¬n + 1 ≤ 8 + s.cfg.stopBits := Nat.not_le_of_lt (hz.1 hzero)
      simp [hover]
    · rename_i hbits
      have hmore := mt hz.2 hbits
      rw [h.busy]
      omega

/-- R152: TXH drives bit `n` of the frame. -/
theorem FrameAt.txd_nextBit (h : FrameAt s b n t) :
    t.nextBit.txd = if (frame s.cfg b).getLsbD n = true then .hi else .lo := by
  show (if t.txsr.getLsbD 0 = true then TxLine.hi else .lo) = _
  rw [h.txsr, BitVec.getLsbD_ushiftRight, Nat.add_zero]

/-- A bit period takes TPB ticks and one TXH. -/
theorem exists_frameAt {u : State} (h : FrameAt s b 0 u) (hn : n ≤ 9 + s.cfg.stopBits) :
    ∃ t, steps (n * (s.cfg.tpb + 1)) u = .next t ∧ FrameAt s b n t := by
  induction n with
  | zero => exact ⟨u, by rw [Nat.zero_mul]; rfl, h⟩
  | succ n ih =>
    obtain ⟨t, hs, ht⟩ := ih (Nat.le_of_succ_le hn)
    refine ⟨t.nextBit, ?_, ht.next⟩
    rw [Nat.succ_mul, steps_add hs, ← ht.cfg]
    exact ht.start.steps_nextBit (ht.busy.2 (by omega))

theorem State.Listening.not_urgent (h : s.Listening) : urgent s = false := by
  simp [urgent, txhEnabled, holdhEnabled, rxcaphEnabled, rxsmphEnabled, calhEnabled, h.txIdle, h.active,
    h.nothingPending]

/-- R150: the SEND that is the host's last command, on a listening port. -/
theorem State.Listening.startFrame (h : s.Listening) (hs : s.sched = []) (hr : s.rxdIn = true)
    (hl : s.hprog.length = s.hpc + 1) (b : Byte) : FrameAt s b 0 (startFrame b s).advance := by
  have hinv := h.inv
  have hdone : s.hprog[s.hpc + 1]? = none := List.getElem?_eq_none hl.le
  obtain ⟨-, -, hline, hedge, hcont, -⟩ := hinv.portOpen (by simp [h.active])
  have hd := (Config.timer_of_legal hinv.ring.legal).2.2.2
  exact {
    start := {
      awaits := {
        legal := hinv.ring.legal
        noFault := h.noFault
        noSched := hs
        hostIdle := hostEnabled_of_no_word hdone
        counting := hcont
        rxQuiet := ⟨h.rxIdle, hline, hedge, hr, h.noEdge, h.nothingPending⟩
        noFlag := rfl
        tarRange := hinv.tarRange
        compare := rfl
        inRange := Nat.lt_of_le_of_lt (Nat.le_add_right _ _) hd }
      gieOn := h.gieOn
      hostDone := hdone }
    cfg := rfl
    now := by simp [Machine.startFrame]
    tar := by simp [Machine.startFrame, Nat.mod_eq_of_lt hinv.tarRange]
    txsr := by simp [Machine.startFrame]
    busy := by simp [Machine.startFrame] }

/-- R118, R150: that SEND is the machine's next step. -/
theorem State.Listening.step_send (h : s.Listening) (hs : s.sched = []) (hw : s.hwait = .none)
    (hp : s.hprog[s.hpc]? = some (commandWord 0x4 b)) : step s = .next (Machine.startFrame b s).advance := by
  have hready : commandReady (commandWord 0x4 b) s = true := by simp [commandReady_iff, h.txIdle]
  obtain ⟨-, hstep⟩ :=
    stepRunsDecodedCommand s _ _ h.inv.ring.legal h.noFault hw h.not_urgent hp (decode_commandWord_send b)
  rw [hstep hs hready, exec_send_of_idle h.active h.txIdle]

end

/-- Settles O54: the SEND, `j + 1` bit periods, and `m` ticks of the next. -/
theorem transmitWaveform : Obligations.TransmitWaveform := by
  intro s b j m h hs hr hw hp hl hj hm
  rw [← commandWord_send] at hp
  obtain ⟨t, hsteps, ht⟩ := exists_frameAt (h.startFrame hs hr hl b) (n := j) (by omega)
  have hnext := ht.next
  have hperiod : steps ((j + 1) * (s.cfg.tpb + 1)) (startFrame b s).advance = .next t.nextBit := by
    rw [Nat.succ_mul, steps_add hsteps, ← ht.cfg]
    exact ht.start.steps_nextBit (ht.busy.2 hj)
  have hticks : steps m t.nextBit = .next (t.nextBit.elapsed m) :=
    hnext.start.awaits.steps_before (by rwa [hnext.cfg])
  refine ⟨t.nextBit.elapsed m, ?_, ?_, ?_, ht.txd_nextBit, hnext.busy.trans Nat.succ_le_iff⟩
  · rw [Nat.add_assoc, steps_add (steps_one (h.step_send hs hw hp)), steps_add hperiod, hticks]
  · exact congrArg (· + m) hnext.now
  · show (t.nextBit.tar + m) % 2 ^ t.nextBit.cfg.timerW = _
    rw [hnext.tar, hnext.cfg, Nat.mod_add_mod]

end Sys2Proof.Machine
end

section
/-! Proofs about the receive engine (43_receive.md): the start of a frame (R171), the samples (R172) and the end of a
frame (R173). -/

namespace Sys2Proof.Machine

open Sys2Proof

/-! ### A push inside another step (R130) -/

section

variable {s : State} {k : State → Out}

theorem pushByte_of_full (hf : ringFull s = true) (b : Byte) : pushByte b s k = k s := if_pos hf

theorem pushByte_of_room (hf : ringFull s = false) (hh : s.head < s.cfg.ringCap) (b : Byte) :
    pushByte b s k = k (s.pushed b) :=
  (if_neg (Bool.eq_false_iff.1 hf)).trans (if_pos hh)

theorem pushByte_out_of_range (hf : ringFull s = false) (hh : s.cfg.ringCap ≤ s.head) (b : Byte) :
    pushByte b s k = .fault (.slotOutOfRange s.head) :=
  (if_neg (Bool.eq_false_iff.1 hf)).trans (if_neg (Nat.not_lt_of_le hh))

end

/-! ### The handlers -/

section

variable {s : State}

theorem rxcaphEnabled_iff :
    rxcaphEnabled s = true ↔ s.ifg1 = true ∧ s.rxIe = true ∧ s.gie = true ∧ s.cap1 = true := by
  simp [rxcaphEnabled, and_assoc]

theorem rxsmphEnabled_iff :
    rxsmphEnabled s = true ↔ s.ifg1 = true ∧ s.rxIe = true ∧ s.gie = true ∧ s.cap1 = false := by
  simp [rxsmphEnabled, and_assoc]

theorem exec_rxcaph_of_enabled (h : rxcaphEnabled s = true) : exec .rxcaph s = .next (rxCapture s) := if_pos h

theorem exec_rxsmph_of_enabled (h : rxsmphEnabled s = true) : exec .rxsmph s = rxSample s := if_pos h

/-- R172: RXACC with the sample that is pending. -/
def State.accumulated (s : State) : Byte := withSample s.rxacc s.rxidx s.scci1

/-- R172: a sample before the eighth. -/
theorem rxSample_of_more (hi : s.rxidx ≠ 7) :
    rxSample s = .next { rxReschedule s with rxacc := s.accumulated, rxidx := s.rxidx + 1 } := if_neg hi

/-- R173: the eighth sample of a frame for which the ring has no room. -/
theorem rxSample_of_full (hi : s.rxidx = 7) (hf : ringFull s = true) :
    rxSample s = .next (backToCapture (rxReschedule s)) :=
  (if_pos hi).trans (pushByte_of_full (s := rxReschedule s) hf _)

/-- R173: the eighth sample of a frame that is stored. -/
theorem rxSample_of_room (hi : s.rxidx = 7) (hf : ringFull s = false) (hh : s.head < s.cfg.ringCap) :
    rxSample s = .next (backToCapture ((rxReschedule s).pushed s.accumulated)) :=
  (if_pos hi).trans (pushByte_of_room (s := rxReschedule s) hf hh _)

theorem rxSample_out_of_range (hi : s.rxidx = 7) (hf : ringFull s = false) (hh : s.cfg.ringCap ≤ s.head) :
    rxSample s = .fault (.slotOutOfRange s.head) :=
  (if_pos hi).trans (pushByte_out_of_range (s := rxReschedule s) hf hh _)

/-- R172: the sample as a byte, put at bit RXIDX. -/
theorem accumulated_eq (s : State) :
    s.accumulated = s.rxacc ||| ((if s.scci1 = true then 1#8 else 0#8) <<< s.rxidx.toNat) := by
  unfold State.accumulated withSample
  cases s.scci1 <;> rfl

end

/-- Settles O32: RXCAPH is enabled, and the sum of the two distances is taken modulo 2^TIMER_W at once. -/
theorem rxcaphResult : Obligations.RxcaphResult := by
  intro s hi hr hg hc
  rw [exec_rxcaph_of_enabled (rxcaphEnabled_iff.2 ⟨hi, hr, hg, hc⟩)]
  simp only [rxCapture, addW, Nat.mod_add_mod]

/-- Settles O33: RXSMPH is enabled; a sample before the eighth, and at the eighth a full ring, room, and a HEAD out of
range. -/
theorem rxsmphResult : Obligations.RxsmphResult := by
  intro s hi hr hg hc acc hacc
  rw [← accumulated_eq] at hacc
  subst hacc
  rw [exec_rxsmph_of_enabled (rxsmphEnabled_iff.2 ⟨hi, hr, hg, hc⟩)]
  refine ⟨rxSample_of_more, fun h7 hf => rxSample_of_full h7 (ringFull_eq_true.2 hf), fun h7 hf hh => ?_,
    fun h7 hf hh => rxSample_out_of_range h7 (ringFull_eq_false.2 hf) hh⟩
  exact ⟨_, rxSample_of_room h7 (ringFull_eq_false.2 hf) hh, Memory.read_write_same _ _ _,
    fun _ ha => Memory.read_write_other ha _ _⟩

end Sys2Proof.Machine
end

section
/-! Proofs about a receive frame in progress with GIE 0 (43_receive.md R177, 90_conflicts.md C14): once a tick may pass,
only time and the inputs move on until HOLDH. -/

namespace Sys2Proof.Machine

open Sys2Proof

/-- `t` differs from `s` at most in the inputs and in what ticks write (R111 to R114, R117). -/
def State.TimeOnly (s t : State) : Prop :=
  ∃ now tar prev1 txd ifg0 ccr1 scci1 ifg1 rxd ref, t = { s with
    now := now, tar := tar, prev1 := prev1, txd := txd, ifg0 := ifg0, ccr1 := ccr1, scci1 := scci1, ifg1 := ifg1,
    rxdIn := rxd, refIn := ref }

section

variable {s t u : State}

theorem State.TimeOnly.refl (s : State) : s.TimeOnly s := ⟨_, _, _, _, _, _, _, _, _, _, rfl⟩

theorem State.TimeOnly.trans (h : s.TimeOnly t) (h' : t.TimeOnly u) : s.TimeOnly u := by
  obtain ⟨_, _, _, _, _, _, _, _, _, _, rfl⟩ := h
  obtain ⟨_, _, _, _, _, _, _, _, _, _, rfl⟩ := h'
  exact ⟨_, _, _, _, _, _, _, _, _, _, rfl⟩

theorem timeOnly_of_moves_tick (h : Moves .tick s t) : s.TimeOnly t := by
  obtain ⟨_, _, _, _, _, _, e, -⟩ := tickBody_frame s
  rcases execTick_next h.2 with ⟨-, rfl⟩ | ⟨-, rfl⟩
  · exact .refl _
  · exact e ▸ ⟨_, _, _, _, _, _, _, _, _, _, rfl⟩

theorem timeOnly_of_moves_env {line : InputLine} {v : Bool} (h : Moves (.env line v) s t) : s.TimeOnly t := by
  obtain ⟨_, _, rfl⟩ := moves_env h
  exact ⟨_, _, _, _, _, _, _, _, _, _, rfl⟩

/-- R118: time and inputs give the host no step that it did not have in a state without an urgent handler. -/
theorem State.TimeOnly.hostEnabled_eq_false (h : s.TimeOnly t) (hu : urgent s = false) (hh : hostEnabled s = false) :
    hostEnabled t = false := by
  rw [Bool.eq_false_iff, Ne, hostEnabled_iff] at hh ⊢
  obtain ⟨_, _, _, _, _, _, _, _, _, _, rfl⟩ := h
  exact fun ⟨_, hw⟩ => hh ⟨hu, hw⟩

/-- R243: with GIE 0 and no calibration, HOLDH is the only handler that can be enabled. -/
theorem handler_of_masked {c : Choice} (hc : c ∈ handlers) (hen : enabled c s = true) (hg : s.gie = false)
    (hcal : calibrating s = false) : c = .holdh := by
  cases c with
  | tick | env | host => simp [handlers] at hc
  | holdh => rfl
  | txh => simp [enabled, txhEnabled, hg] at hen
  | rxcaph => simp [enabled, rxcaphEnabled, hg] at hen
  | rxsmph => simp [enabled, rxsmphEnabled, hg] at hen
  | calh => simp [enabled, calhEnabled, hcal] at hen

/-- R155, R177, C14: with GIE 0, no calibration and a tick that may pass, nothing but time and the inputs moves on, in
any order of steps without HOLDH. -/
theorem timeOnly_of_reaches (hm : mayTake .tick s = true) (hg : s.gie = false) (hcal : calibrating s = false)
    (h : ReachesBy (fun _ c => c ≠ .holdh) s t) : s.TimeOnly t := by
  obtain ⟨hen, hfirst⟩ := (mayTake_iff _ _).1 hm
  induction h with
  | refl => exact .refl s
  | tail c _ hc hmv ih =>
    rcases choice_cases c with rfl | ⟨line, v, rfl⟩ | rfl | hh
    · exact ih.trans (timeOnly_of_moves_tick hmv)
    · exact ih.trans (timeOnly_of_moves_env hmv)
    · have hno := ih.hostEnabled_eq_false ((enabled_tick_iff s).1 hen).2 (hfirst rfl)
      exact nomatch hno.symm.trans ((enabled_host_iff _).1 hmv.1).2
    · obtain ⟨_, _, _, _, _, _, _, _, _, _, rfl⟩ := ih
      exact absurd (handler_of_masked hh hmv.1 hg hcal) hc

/-- R213. -/
theorem release_of_moves_holdh (h : Moves .holdh s t) : t = release s := by
  rcases execHoldh_next h.2 with ⟨-, e⟩ | ⟨hno, -⟩
  · exact e
  · have hen := h.1
    simp [enabled, hno] at hen

end

/-- Settles O57: nothing but time and the inputs has moved on, and HOLDH does no push. -/
theorem maskedReceiveIsNeverPushed : Obligations.MaskedReceiveIsNeverPushed := by
  intro s hinv hm hg hp hc t h
  have hf : s.fault = none := fault_none_of_enabled ((mayTake_iff _ _).1 hm).1
  obtain ⟨_, _, _, _, _, _, _, _, _, _, rfl⟩ := timeOnly_of_reaches hm hg (hinv.calibrating_of_open hp) h
  refine ⟨hg, hc, rfl, rfl, rfl, rfl, rfl, rfl, hf, fun u hu => ?_⟩
  rw [release_of_moves_holdh hu]
  exact ⟨rfl, rfl, rfl, rfl, rfl, rfl⟩

end Sys2Proof.Machine
end

section
/-! Proofs about lists of steps followed one by one (40_timer.md R110): what they keep, and that the machine of a host
that is done does the same when its schedule asks for them (notes/assumptions/6.md). -/

namespace Sys2Proof.Machine

open Sys2Proof

section

variable {s t u : State} {c : Choice} {cs l : List Choice}

theorem follow_cons_of_moves (h : Moves c s u) : follow (c :: cs) s = follow cs u := by
  rw [follow, if_pos h.1, h.2]

theorem follow_cons_of_not_enabled (h : enabled c s = false) : follow (c :: cs) s = follow cs s := by
  rw [follow, if_neg (Bool.eq_false_iff.1 h)]

/-- The first step is taken, or passed over. -/
theorem follow_cons_cases (h : follow (c :: cs) s = .next t) :
    (∃ u, Moves c s u ∧ follow cs u = .next t) ∨ (enabled c s = false ∧ follow cs s = .next t) := by
  cases hen : enabled c s with
  | false => exact .inr ⟨rfl, (follow_cons_of_not_enabled hen).symm.trans h⟩
  | true =>
    rw [follow, if_pos hen] at h
    cases ht : take c s with
    | next u => exact .inl ⟨u, ⟨hen, ht⟩, by rwa [ht] at h⟩
    | fault r => simp [ht] at h
    | refused r => simp [ht] at h

theorem follow_append (h : follow l s = .next t) (cs : List Choice) : follow (l ++ cs) s = follow cs t := by
  induction l generalizing s with
  | nil =>
    cases h
    rfl
  | cons c l ih =>
    rcases follow_cons_cases h with ⟨u, hm, h'⟩ | ⟨hno, h'⟩
    · exact (follow_cons_of_moves hm).trans (ih h')
    · exact (follow_cons_of_not_enabled hno).trans (ih h')

theorem follow_keeps_inv (hinv : s.Inv) (h : follow l s = .next t) : t.Inv := by
  induction l generalizing s with
  | nil =>
    cases h
    exact hinv
  | cons c l ih =>
    rcases follow_cons_cases h with ⟨u, hm, h'⟩ | ⟨-, h'⟩
    · exact ih (moves_keeps_inv hinv hm) h'
    · exact ih hinv h'

/-! ### The meanings do not read the schedule (R57) -/

theorem guarded_withSched {g : Bool} (l : List Choice) (h : (if g = true then (.next u : Out) else held s) = .next t) :
    (if g = true then (.next (u.withSched l) : Out) else held (s.withSched l)) = .next (t.withSched l) := by
  rcases guarded_next h with ⟨hg, rfl⟩ | ⟨hg, rfl⟩
  · exact if_pos hg
  · exact if_neg (Bool.eq_false_iff.1 hg)

theorem tickBody_withSched (l : List Choice) (s : State) : tickBody (s.withSched l) = (tickBody s).withSched l := by
  cases hm : s.tmode with
  | stop =>
    rw [tickBody_of_stop hm, tickBody_of_stop (s := s.withSched l) hm]
    rfl
  | cont =>
    rw [tickBody_of_cont hm, tickBody_of_cont (s := s.withSched l) hm]
    rfl

theorem adjust_withSched (delta : Nat) (l : List Choice) (s : State) :
    adjust delta (s.withSched l) = (adjust delta s).withSched l := by
  unfold adjust
  rw [apply_ite (State.withSched l)]
  rfl

theorem measure_withSched (l : List Choice) (s : State) : measure (s.withSched l) = (measure s).withSched l := by
  unfold measure
  dsimp only
  rw [apply_ite (State.withSched l), ← adjust_withSched]
  rfl

theorem calCapture_withSched (l : List Choice) (s : State) :
    calCapture (s.withSched l) = (calCapture s).withSched l := by
  unfold calCapture
  rw [apply_ite (State.withSched l), ← measure_withSched]
  rfl

theorem exec_rxsmph_withSched (l : List Choice) (h : exec .rxsmph s = .next t) :
    exec .rxsmph (s.withSched l) = .next (t.withSched l) := by
  rcases execRxsmph_next h with ⟨hen, rfl⟩ | ⟨hen, hi, rfl⟩ | ⟨hen, hi, hf, rfl⟩ | ⟨hen, hi, hf, hh, rfl⟩
  · exact if_neg (Bool.eq_false_iff.1 hen)
  · exact (exec_rxsmph_of_enabled (s := s.withSched l) hen).trans (rxSample_of_more hi)
  · exact (exec_rxsmph_of_enabled (s := s.withSched l) hen).trans (rxSample_of_full hi hf)
  · exact (exec_rxsmph_of_enabled (s := s.withSched l) hen).trans (rxSample_of_room hi hf hh)

/-- A step of any agent but the host leaves the schedule alone, whatever it is. -/
theorem take_withSched (hc : c ≠ .host) (l : List Choice) (h : take c s = .next t) :
    take c (s.withSched l) = .next (t.withSched l) := by
  cases c with
  | host => exact absurd rfl hc
  | tick =>
    rcases execTick_next h with ⟨hu, rfl⟩ | ⟨hu, rfl⟩
    · exact if_pos hu
    · exact (execTick_of_not_urgent (s := s.withSched l) hu).trans (congrArg _ (tickBody_withSched l s))
  | env line v => rcases execEnv_next h with ⟨rfl, rfl⟩ | ⟨rfl, rfl⟩ <;> rfl
  | txh | holdh | rxcaph => exact guarded_withSched l h
  | rxsmph => exact exec_rxsmph_withSched l h
  | calh =>
    have e := guarded_withSched l h
    rw [← calCapture_withSched] at e
    exact e

/-- C14: a host that is done holds no tick back, so the machine takes the steps that its schedule asks for exactly where
R110's table has them. -/
theorem steps_of_follow (hl : s.cfg.legal = true) (hf : s.fault = none) (hd : s.hprog[s.hpc]? = none)
    (h : follow l s = .next t) : steps l.length (s.withSched l) = .next (t.withSched []) := by
  induction l generalizing s with
  | nil =>
    cases h
    rfl
  | cons c cs ih =>
    have hhost : hostEnabled s = false := hostEnabled_of_no_word hd
    have hstep : step (s.withSched (c :: cs))
        = if mayTake c s = true then take c (s.withSched cs) else .next (s.withSched cs) :=
      mayTake_withSched c s _ ▸ step_of_sched_cons (s := s.withSched (c :: cs)) hl hf rfl
    rw [List.length_cons, Nat.add_comm]
    rcases follow_cons_cases h with ⟨u, hm, h'⟩ | ⟨hno, h'⟩
    · have hc : c ≠ .host := by
        rintro rfl
        exact nomatch hhost.symm.trans ((enabled_host_iff s).1 hm.1).2
      obtain ⟨hcfg, -, hprog, hpc, -, -, -, hfault⟩ := moves_keeps_host hm hc
      have hmay : mayTake c s = true := (mayTake_iff c s).2 ⟨hm.1, fun _ => hhost⟩
      rw [if_pos hmay, take_withSched hc cs hm.2] at hstep
      rw [steps_add (steps_one hstep)]
      exact ih (hcfg ▸ hl) (hfault.trans hf) (by rw [hprog, hpc, hd]) h'
    · have hmay : mayTake c s = false := (mayTake_eq_false_iff c s).2 (.inl hno)
      rw [if_neg (Bool.eq_false_iff.1 hmay)] at hstep
      rw [steps_add (steps_one hstep)]
      exact ih hl hf hd h'

end

end Sys2Proof.Machine
end

section
/-! Proofs about the frame round trip (43_receive.md R176): tick by tick, what the receiver makes of an ideal frame while
the transmitter does what it likes. -/

namespace Sys2Proof.Machine

open Sys2Proof

/-! ### The line of an ideal frame -/

section

variable {c : Config}

theorem frameLevel_edge (hc : 0 < c.tpb) (b : Byte) : frameLevel c b 0 = false := if_pos hc

/-- R176: one and a half bit periods after the edge, and every bit period from there, the line has the next bit. -/
theorem frameLevel_sample (hc : c.tphb < c.tpb) (b : Byte) {k : Nat} (hk : k < 8) :
    frameLevel c b (c.tphb + (k + 1) * c.tpb) = b.getLsbD k := by
  have hlow : ¬c.tphb + (k + 1) * c.tpb < c.tpb := by
    rw [Nat.succ_mul]
    omega
  have hbit : (c.tphb + (k + 1) * c.tpb) / c.tpb = k + 1 := by
    rw [Nat.add_mul_div_right _ _ (Nat.zero_lt_of_lt hc), Nat.div_eq_of_lt hc, Nat.zero_add]
  rw [frameLevel, if_neg hlow, hbit, Nat.add_sub_cancel, Nat.min_eq_left (Nat.le_of_lt_succ hk)]

/-- R176: bit 7 is kept on. -/
theorem frameLevel_last (hc : 0 < c.tpb) (b : Byte) {n : Nat} (hn : 8 * c.tpb ≤ n) :
    frameLevel c b n = b.getLsbD 7 := by
  have hlow : ¬n < c.tpb := by omega
  have hbit : 8 ≤ n / c.tpb := (Nat.le_div_iff_mul_le hc).2 hn
  rw [frameLevel, if_neg hlow, Nat.min_eq_right (by omega)]

/-- R176: the steps of one tick of a frame: the level of the line, the tick, and the handlers. -/
def lineTick (v : Bool) : List Choice := [.env .rxd v, .tick, .txh, .rxcaph, .rxsmph]

theorem frameSchedule_succ (c : Config) (b : Byte) (n : Nat) :
    frameSchedule c b (n + 1) = frameSchedule c b n ++ lineTick (frameLevel c b n) := by
  rw [frameSchedule, List.range_succ, List.flatMap_append, List.flatMap_singleton]
  rfl

theorem length_frameSchedule (c : Config) (b : Byte) (n : Nat) : (frameSchedule c b n).length = 5 * n := by
  induction n with
  | zero => rfl
  | succ n ih => rw [frameSchedule_succ, List.length_append, ih, Nat.mul_succ, lineTick]; rfl

end

/-! ### The byte in assembly (R72) -/

/-- R172: RXACC after the first `k` bits of `b`. -/
def assembled (b : Byte) (k : Nat) : Byte :=
  (List.range k).foldl (fun acc i => withSample acc (BitVec.ofNat 3 i) (b.getLsbD i)) 0#8

theorem assembled_succ (b : Byte) (k : Nat) :
    assembled b (k + 1) = withSample (assembled b k) (BitVec.ofNat 3 k) (b.getLsbD k) := by
  rw [assembled, List.range_succ, List.foldl_append]
  rfl

theorem assembled_eight (b : Byte) : assembled b 8 = b :=
  BitVec.eq_of_getLsbD_eq fun i hi => samplesAssembleByte (fun k => b.getLsbD k) i hi

/-! ### One tick of an active port -/

/-- An active port with GIE 1 whose handlers have all run: the state between the ticks of a frame. -/
structure State.Receiving (s : State) : Prop where
  inv : s.Inv
  noFault : s.fault = none
  active : s.pstate = .active
  gieOn : s.gie = true
  noEvent : s.ifg1 = false
  txDone : txhEnabled s = false

/-- `t` differs from `s` at most in the transmitter's registers and line. -/
def State.SameButTx (s t : State) : Prop :=
  ∃ ccr0 ifg0 txsr txIe txd, t = { s with ccr0 := ccr0, ifg0 := ifg0, txsr := txsr, txIe := txIe, txd := txd }

/-- R111: a counting tick in which nothing happens, with the receive line at `v`. -/
def State.quietTick (v : Bool) (s : State) : State :=
  { s with rxdIn := v, now := s.now + 1, prev1 := v, tar := addW s.cfg s.tar 1 }

/-- R111, R113, R114: a counting tick of channel 1 alone, with the receive line at `v`. -/
def State.rxTick (v : Bool) (s : State) : State :=
  { s.quietTick v with
    ccr1 := if s.cap1 && (s.prev1 && !v) then addW s.cfg s.tar 1 else s.ccr1
    scci1 := if !s.cap1 && decide (addW s.cfg s.tar 1 = s.ccr1) then v else s.scci1
    ifg1 := (s.cap1 && (s.prev1 && !v)) || (!s.cap1 && decide (addW s.cfg s.tar 1 = s.ccr1)) || s.ifg1 }

section

variable {s t u : State} {v : Bool}

theorem State.SameButTx.trans (h : s.SameButTx t) (h' : t.SameButTx u) : s.SameButTx u := by
  obtain ⟨_, _, _, _, _, rfl⟩ := h
  obtain ⟨_, _, _, _, _, rfl⟩ := h'
  exact ⟨_, _, _, _, _, rfl⟩

/-- R152: TXH runs if it is enabled; either way it is not enabled afterwards. -/
theorem exists_follow_txh (hf : s.fault = none) (cs : List Choice) :
    ∃ u, follow (.txh :: cs) s = follow cs u ∧ s.SameButTx u ∧ txhEnabled u = false := by
  cases he : txhEnabled s with
  | false => exact ⟨s, follow_cons_of_not_enabled (by simp [enabled, he]), ⟨_, _, _, _, _, rfl⟩, he⟩
  | true =>
    have hm : Moves .txh s (txShift s) := ⟨by simp [enabled, he, hf], exec_txh_of_enabled he⟩
    exact ⟨_, follow_cons_of_moves hm, ⟨_, _, _, _, _, rfl⟩, rfl⟩

theorem follow_rx_of_no_event (h : s.ifg1 = false) : follow [.rxcaph, .rxsmph] s = .next s := by
  rw [follow_cons_of_not_enabled (by simp [enabled, rxcaphEnabled, h]),
    follow_cons_of_not_enabled (by simp [enabled, rxsmphEnabled, h])]
  rfl

/-- R171: RXCAPH clears the event, so RXSMPH does not run on it. -/
theorem follow_rx_of_edge (hf : s.fault = none) (he : rxcaphEnabled s = true) :
    follow [.rxcaph, .rxsmph] s = .next (rxCapture s) := by
  have hm : Moves .rxcaph s (rxCapture s) := ⟨by simp [enabled, he, hf], exec_rxcaph_of_enabled he⟩
  rw [follow_cons_of_moves hm, follow_cons_of_not_enabled (by simp [enabled, rxsmphEnabled, rxCapture])]
  rfl

theorem follow_rx_of_sample (hf : s.fault = none) (he : rxsmphEnabled s = true) (h : rxSample s = .next t) :
    follow [.rxcaph, .rxsmph] s = .next t := by
  obtain ⟨-, -, -, hc⟩ := rxsmphEnabled_iff.1 he
  have hm : Moves .rxsmph s t := ⟨by simp [enabled, he, hf], (exec_rxsmph_of_enabled he).trans h⟩
  rw [follow_cons_of_not_enabled (by simp [enabled, rxcaphEnabled, hc]), follow_cons_of_moves hm]
  rfl

/-- R113: a falling edge on a line that was high. -/
theorem rxTick_of_edge (hc : s.cap1 = true) (hp : s.prev1 = true) :
    s.rxTick false = { s.quietTick false with ccr1 := addW s.cfg s.tar 1, ifg1 := true } := by
  simp [State.rxTick, State.quietTick, hc, hp]

/-- R114: the counter meets CCR1. -/
theorem rxTick_of_compare (hc : s.cap1 = false) (hr : addW s.cfg s.tar 1 = s.ccr1) (v : Bool) :
    s.rxTick v = { s.quietTick v with scci1 := v, ifg1 := true } := by
  simp [State.rxTick, State.quietTick, hc, hr]

/-- R111: neither an edge nor a compare. -/
theorem rxTick_of_quiet (hcap : s.cap1 = true → s.prev1 = true → v = true)
    (hcmp : s.cap1 = false → addW s.cfg s.tar 1 ≠ s.ccr1) : s.rxTick v = s.quietTick v := by
  have hedge : (s.cap1 && (s.prev1 && !v)) = false := by
    rw [← Bool.and_assoc, Bool.and_eq_false_imp, Bool.and_eq_true]
    exact fun ⟨hc, hp⟩ => by simp [hcap hc hp]
  have hmeet : (!s.cap1 && decide (addW s.cfg s.tar 1 = s.ccr1)) = false := by
    simpa using hcmp
  simp [State.rxTick, hedge, hmeet, State.quietTick]

end

namespace State.Receiving

variable {s t : State} {v : Bool}

theorem not_urgent (h : s.Receiving) : urgent s = false := by
  simp [urgent, holdhEnabled, rxcaphEnabled, rxsmphEnabled, calhEnabled, h.txDone, h.active, h.noEvent]

theorem rxOn (h : s.Receiving) : s.rxIe = true := (h.inv.portOpen (by simp [h.active])).2.1

/-- R111 to R114: channel 0's part of a tick is the transmitter's. -/
theorem sameButTx_tickBody (h : s.Receiving) (v : Bool) :
    (s.rxTick v).SameButTx (tickBody { s with rxdIn := v }) := by
  obtain ⟨-, -, hline, hedge, hcont, -⟩ := h.inv.portOpen (by simp [h.active])
  have hin : chan1Input { s with rxdIn := v } = v := by simp [chan1Input, hline]
  have hseen : edgeSeen { s with rxdIn := v } v = (s.prev1 && !v) := by simp [edgeSeen, hedge]
  rw [tickBody_of_cont (s := { s with rxdIn := v }) hcont, hin, hseen]
  exact ⟨_, _, _, _, _, rfl⟩

/-- The line, the tick and TXH. -/
theorem exists_follow_tick (h : s.Receiving) (v : Bool) :
    ∃ u, follow (lineTick v) s = follow [.rxcaph, .rxsmph] u ∧ (s.rxTick v).SameButTx u ∧ txhEnabled u = false := by
  have henv : Moves (.env .rxd v) s { s with rxdIn := v } := ⟨(enabled_env_iff _ _ _).2 h.noFault, rfl⟩
  have hu : urgent { s with rxdIn := v } = false := h.not_urgent
  have htick : Moves .tick { s with rxdIn := v } (tickBody { s with rxdIn := v }) :=
    ⟨(enabled_tick_iff _).2 ⟨h.noFault, hu⟩, execTick_of_not_urgent hu⟩
  have hbody := h.sameButTx_tickBody v
  have hf : (tickBody { s with rxdIn := v }).fault = none := by
    obtain ⟨_, _, _, _, _, e⟩ := hbody
    rw [e]
    exact h.noFault
  obtain ⟨u, hfollow, htx, hdone⟩ := exists_follow_txh hf [.rxcaph, .rxsmph]
  exact ⟨u, by rw [lineTick, follow_cons_of_moves henv, follow_cons_of_moves htick, hfollow], hbody.trans htx, hdone⟩

/-- A tick of a frame in which the receiver sees nothing. -/
theorem follow_quiet (h : s.Receiving) (hcap : s.cap1 = true → s.prev1 = true → v = true)
    (hcmp : s.cap1 = false → addW s.cfg s.tar 1 ≠ s.ccr1) :
    ∃ t, follow (lineTick v) s = .next t ∧ t.Receiving ∧ (s.quietTick v).SameButTx t := by
  obtain ⟨u, hfollow, htx, hdone⟩ := h.exists_follow_tick v
  rw [rxTick_of_quiet hcap hcmp] at htx
  obtain ⟨_, _, _, _, _, rfl⟩ := htx
  have hf := hfollow.trans (follow_rx_of_no_event h.noEvent)
  exact ⟨_, hf, ⟨follow_keeps_inv h.inv hf, h.noFault, h.active, h.gieOn, h.noEvent, hdone⟩, _, _, _, _, _, rfl⟩

/-- R113, R171: the tick of the edge. -/
theorem follow_edge (h : s.Receiving) (hc : s.cap1 = true) (hp : s.prev1 = true) :
    ∃ t, follow (lineTick false) s = .next t ∧ t.Receiving
      ∧ (rxCapture { s.quietTick false with ccr1 := addW s.cfg s.tar 1 }).SameButTx t := by
  obtain ⟨u, hfollow, htx, hdone⟩ := h.exists_follow_tick false
  rw [rxTick_of_edge hc hp] at htx
  obtain ⟨_, _, _, _, _, rfl⟩ := htx
  have hf := hfollow.trans (follow_rx_of_edge h.noFault (rxcaphEnabled_iff.2 ⟨rfl, h.rxOn, h.gieOn, hc⟩))
  exact ⟨_, hf, ⟨follow_keeps_inv h.inv hf, h.noFault, h.active, h.gieOn, rfl, hdone⟩, _, _, _, _, _, rfl⟩

/-- R114, R172: the tick of a sample before the eighth. -/
theorem follow_sample (h : s.Receiving) (hc : s.cap1 = false) (hr : addW s.cfg s.tar 1 = s.ccr1) (hi : s.rxidx ≠ 7)
    (v : Bool) :
    ∃ t, follow (lineTick v) s = .next t ∧ t.Receiving
      ∧ State.SameButTx { rxReschedule (s.quietTick v) with
          scci1 := v, rxacc := withSample s.rxacc s.rxidx v, rxidx := s.rxidx + 1 } t := by
  obtain ⟨u, hfollow, htx, hdone⟩ := h.exists_follow_tick v
  rw [rxTick_of_compare hc hr] at htx
  obtain ⟨_, _, _, _, _, rfl⟩ := htx
  have hf := hfollow.trans
    (follow_rx_of_sample h.noFault (rxsmphEnabled_iff.2 ⟨rfl, h.rxOn, h.gieOn, hc⟩) (rxSample_of_more hi))
  exact ⟨_, hf, ⟨follow_keeps_inv h.inv hf, h.noFault, h.active, h.gieOn, rfl, hdone⟩, _, _, _, _, _, rfl⟩

/-- R114, R173: the tick of the eighth sample, with room in the ring. -/
theorem follow_last (h : s.Receiving) (hc : s.cap1 = false) (hr : addW s.cfg s.tar 1 = s.ccr1) (hi : s.rxidx = 7)
    (hroom : ringFull s = false) (v : Bool) :
    ∃ t, follow (lineTick v) s = .next t ∧ t.Receiving
      ∧ (backToCapture
        { (rxReschedule (s.quietTick v)).pushed (withSample s.rxacc s.rxidx v) with scci1 := v }).SameButTx t := by
  obtain ⟨u, hfollow, htx, hdone⟩ := h.exists_follow_tick v
  rw [rxTick_of_compare hc hr] at htx
  obtain ⟨_, _, _, _, _, rfl⟩ := htx
  have hf := hfollow.trans (follow_rx_of_sample h.noFault (rxsmphEnabled_iff.2 ⟨rfl, h.rxOn, h.gieOn, hc⟩)
    (rxSample_of_room hi hroom h.inv.ring.headRange))
  exact ⟨_, hf, ⟨follow_keeps_inv h.inv hf, h.noFault, h.active, h.gieOn, rfl, hdone⟩, _, _, _, _, _, rfl⟩

end State.Receiving

end Sys2Proof.Machine
end

section
/-! Proofs about the frame round trip (43_receive.md R176): the samples and the stored byte. -/

namespace Sys2Proof.Machine

open Sys2Proof

/-- R172, R176: `n` ticks of an ideal frame of `b` after `s`, with the edge captured, `k` bits sampled, and the next
sample `d` ticks away. -/
structure Collecting (s : State) (b : Byte) (n k d : Nat) (t : State) : Prop where
  receiving : t.Receiving
  cfg : t.cfg = s.cfg
  head : t.head = s.head
  tail : t.tail = s.tail
  now : t.now = s.now + n
  compare : t.cap1 = false
  more : k < 8
  idx : t.rxidx = BitVec.ofNat 3 k
  acc : t.rxacc = assembled b k
  reg : t.ccr1 = addW t.cfg t.tar d
  ahead : 1 ≤ d
  near : d ≤ s.cfg.tphb + s.cfg.tpb
  timing : n + d = s.cfg.tphb + (k + 1) * s.cfg.tpb + 1

/-- R173, R176: `n` ticks of an ideal frame of `b` after `s`, with the byte stored and the line at its last level. -/
structure Received (s : State) (b : Byte) (n : Nat) (t : State) : Prop where
  receiving : t.Receiving
  cfg : t.cfg = s.cfg
  head : t.head = addC s.cfg s.head 1
  tail : t.tail = s.tail
  now : t.now = s.now + n
  capture : t.cap1 = true
  level : t.prev1 = b.getLsbD 7
  stored : Memory.read s.head t.buf = some b
  late : 8 * s.cfg.tpb ≤ n

/-- R15. -/
theorem addW_addW (c : Config) (a b d : Nat) : addW c (addW c a b) d = addW c a (b + d) := by
  simp [addW, Nat.add_assoc]

section

variable {s t : State} {b : Byte} {n k d : Nat}

/-- R176: the first tick captures the edge and schedules the first sample (R171). -/
theorem State.Receiving.exists_collecting (h : s.Receiving) (hc : s.cap1 = true) (hp : s.prev1 = true) (b : Byte) :
    ∃ t, follow (frameSchedule s.cfg b 1) s = .next t ∧ Collecting s b 1 0 (s.cfg.tphb + s.cfg.tpb) t := by
  obtain ⟨h1, h2, -, -⟩ := Config.timer_of_legal h.inv.ring.legal
  obtain ⟨t, hf, hr, _, _, _, _, _, rfl⟩ := h.follow_edge hc hp
  refine ⟨_, ?_, {
    receiving := hr
    cfg := rfl
    head := rfl
    tail := rfl
    now := rfl
    compare := rfl
    more := by decide
    idx := rfl
    acc := rfl
    reg := addW_addW s.cfg (addW s.cfg s.tar 1) s.cfg.tphb s.cfg.tpb
    ahead := by omega
    near := Nat.le_refl _
    timing := by omega }⟩
  rw [frameSchedule_succ, frameLevel_edge (Nat.zero_lt_of_lt h2)]
  exact hf

namespace Collecting

theorem timer (h : Collecting s b n k d t) :
    s.cfg.tphb < s.cfg.tpb ∧ 2 ≤ s.cfg.tpb ∧ s.cfg.tpb + s.cfg.tphb < 2 ^ s.cfg.timerW :=
  (Config.timer_of_legal (h.cfg ▸ h.receiving.inv.ring.legal)).2

/-- R115: the next tick is a sample exactly when it is the last of the `d`. -/
theorem meets_iff (h : Collecting s b n k d t) : addW t.cfg t.tar 1 = t.ccr1 ↔ d = 1 := by
  obtain ⟨-, -, hM⟩ := h.timer
  have hd : d < 2 ^ t.cfg.timerW := by
    rw [h.cfg]
    have := h.near
    omega
  rw [h.reg]
  refine ⟨fun e => ?_, fun e => e ▸ rfl⟩
  exact ((Nat.ModEq.add_left_cancel' t.tar e).eq_of_lt_of_lt (Nat.lt_of_le_of_lt h.ahead hd) hd).symm

/-- Between samples the receiver does not look at the line. -/
theorem wait (h : Collecting s b n k (d + 1) t) (hd : 1 ≤ d) (v : Bool) :
    ∃ u, follow (lineTick v) t = .next u ∧ Collecting s b (n + 1) k d u := by
  have hmeet : addW t.cfg t.tar 1 ≠ t.ccr1 := mt h.meets_iff.1 (by omega)
  obtain ⟨u, hf, hr, _, _, _, _, _, rfl⟩ :=
    h.receiving.follow_quiet (v := v) (fun hc => nomatch h.compare.symm.trans hc) fun _ => hmeet
  exact ⟨_, hf, {
    receiving := hr
    cfg := h.cfg
    head := h.head
    tail := h.tail
    now := congrArg (· + 1) h.now
    compare := h.compare
    more := h.more
    idx := h.idx
    acc := h.acc
    reg := by
      show t.ccr1 = addW t.cfg (addW t.cfg t.tar 1) d
      rw [addW_addW, Nat.add_comm]
      exact h.reg
    ahead := hd
    near := Nat.le_of_succ_le h.near
    timing := by
      have := h.timing
      omega }⟩

/-- R176: the level at the tick of a sample is the next bit. -/
theorem level (h : Collecting s b n k 1 t) : frameLevel s.cfg b n = b.getLsbD k := by
  rw [Nat.succ.inj h.timing]
  exact frameLevel_sample h.timer.1 b h.more

/-- R172: a sample before the eighth. -/
theorem sample (h : Collecting s b n k 1 t) (hk : k < 7) :
    ∃ u, follow (lineTick (frameLevel s.cfg b n)) t = .next u ∧ Collecting s b (n + 1) (k + 1) s.cfg.tpb u := by
  obtain ⟨-, h2, -⟩ := h.timer
  have hmeet := h.meets_iff.2 rfl
  have hi : t.rxidx ≠ 7 := by
    rw [h.idx]
    interval_cases k <;> decide
  rw [h.level]
  obtain ⟨u, hf, hr, _, _, _, _, _, rfl⟩ := h.receiving.follow_sample h.compare hmeet hi (b.getLsbD k)
  exact ⟨_, hf, {
    receiving := hr
    cfg := h.cfg
    head := h.head
    tail := h.tail
    now := congrArg (· + 1) h.now
    compare := h.compare
    more := Nat.succ_lt_succ hk
    idx := (congrArg (· + 1) h.idx).trans (BitVec.ofNat_add k 1).symm
    acc := by
      show withSample t.rxacc t.rxidx _ = _
      rw [h.acc, h.idx, assembled_succ]
    reg := by
      show addW t.cfg t.ccr1 t.cfg.tpb = addW t.cfg (addW t.cfg t.tar 1) s.cfg.tpb
      rw [hmeet, h.cfg]
    ahead := Nat.le_of_succ_le h2
    near := Nat.le_add_left _ _
    timing := by
      have := h.timing
      rw [Nat.succ_mul (k + 1)]
      omega }⟩

/-- R173: the eighth sample stores the byte. -/
theorem last (h : Collecting s b n 7 1 t) (hroom : ringFull s = false) :
    ∃ u, follow (lineTick (frameLevel s.cfg b n)) t = .next u ∧ Received s b (n + 1) u := by
  have hroom' : ringFull t = false := by
    rw [ringFull, h.cfg, h.head, h.tail]
    exact hroom
  rw [h.level]
  obtain ⟨u, hf, hr, _, _, _, _, _, rfl⟩ :=
    h.receiving.follow_last h.compare (h.meets_iff.2 rfl) h.idx hroom' (b.getLsbD 7)
  exact ⟨_, hf, {
    receiving := hr
    cfg := h.cfg
    head := by
      show addC t.cfg t.head 1 = _
      rw [h.cfg, h.head]
    tail := h.tail
    now := congrArg (· + 1) h.now
    capture := rfl
    level := rfl
    stored := by
      show Memory.read s.head (Memory.write t.head (withSample t.rxacc t.rxidx _) t.buf) = _
      rw [h.head, Memory.read_write_same, h.acc, h.idx, ← assembled_succ, assembled_eight]
    late := by
      have := h.timing
      omega }⟩

/-- One tick of the frame. -/
theorem next (h : Collecting s b n k d t) (hroom : ringFull s = false) :
    ∃ u, follow (lineTick (frameLevel s.cfg b n)) t = .next u
      ∧ ((∃ k d, Collecting s b (n + 1) k d u) ∨ Received s b (n + 1) u) := by
  obtain ⟨d, rfl⟩ := Nat.exists_eq_add_of_le' h.ahead
  rcases Nat.eq_zero_or_pos d with rfl | hd
  · rcases Nat.lt_or_eq_of_le (Nat.le_of_lt_succ h.more) with hk | rfl
    · obtain ⟨u, hf, hu⟩ := h.sample hk
      exact ⟨u, hf, .inl ⟨_, _, hu⟩⟩
    · obtain ⟨u, hf, hu⟩ := h.last hroom
      exact ⟨u, hf, .inr hu⟩
  · obtain ⟨u, hf, hu⟩ := h.wait hd _
    exact ⟨u, hf, .inl ⟨_, _, hu⟩⟩

/-- The eighth sample is over before the last bit period is. -/
theorem lt_frame (h : Collecting s b n k d t) : n < 9 * s.cfg.tpb := by
  obtain ⟨hhalf, -, -⟩ := h.timer
  have hk : (k + 1) * s.cfg.tpb ≤ 8 * s.cfg.tpb := Nat.mul_le_mul_right _ h.more
  have := h.timing
  have := h.ahead
  omega

end Collecting

/-- R176: after bit 7 the line shows no falling edge. -/
theorem Received.next (h : Received s b n t) :
    ∃ u, follow (lineTick (frameLevel s.cfg b n)) t = .next u ∧ Received s b (n + 1) u := by
  obtain ⟨-, -, h2, -⟩ := Config.timer_of_legal (h.cfg ▸ h.receiving.inv.ring.legal)
  rw [frameLevel_last (by omega) b h.late]
  obtain ⟨u, hf, hr, _, _, _, _, _, rfl⟩ := h.receiving.follow_quiet (v := b.getLsbD 7)
    (fun _ hp => h.level.symm.trans hp) fun hc => nomatch h.capture.symm.trans hc
  exact ⟨_, hf, {
    receiving := hr
    cfg := h.cfg
    head := h.head
    tail := h.tail
    now := congrArg (· + 1) h.now
    capture := h.capture
    level := rfl
    stored := h.stored
    late := Nat.le_succ_of_le h.late }⟩

/-- R176: after each tick of the frame but the first, the byte is in assembly or stored. -/
theorem State.Receiving.exists_frame (h : s.Receiving) (hc : s.cap1 = true) (hp : s.prev1 = true)
    (hroom : ringFull s = false) (b : Byte) (n : Nat) :
    ∃ t, follow (frameSchedule s.cfg b (n + 1)) s = .next t
      ∧ ((∃ k d, Collecting s b (n + 1) k d t) ∨ Received s b (n + 1) t) := by
  induction n with
  | zero =>
    obtain ⟨t, hf, ht⟩ := h.exists_collecting hc hp b
    exact ⟨t, hf, .inl ⟨_, _, ht⟩⟩
  | succ n ih =>
    obtain ⟨t, hf, ht⟩ := ih
    rw [frameSchedule_succ, follow_append hf]
    rcases ht with ⟨k, d, ht⟩ | ht
    · exact ht.next hroom
    · obtain ⟨u, hfu, hu⟩ := ht.next
      exact ⟨u, hfu, .inr hu⟩

/-- R176: at the end of the frame the byte is stored. -/
theorem State.Receiving.exists_received (h : s.Receiving) (hc : s.cap1 = true) (hp : s.prev1 = true)
    (hroom : ringFull s = false) (b : Byte) :
    ∃ t, follow (frameSchedule s.cfg b (9 * s.cfg.tpb)) s = .next t ∧ Received s b (9 * s.cfg.tpb) t := by
  obtain ⟨-, -, h2, -⟩ := Config.timer_of_legal h.inv.ring.legal
  obtain ⟨n, hn⟩ := Nat.exists_eq_add_of_le' (by omega : 1 ≤ 9 * s.cfg.tpb)
  obtain ⟨t, hf, ⟨k, d, ht⟩ | ht⟩ := h.exists_frame hc hp hroom b n
  · exact absurd ht.lt_frame (by omega)
  · exact ⟨t, hn ▸ hf, hn ▸ ht⟩

/-- An active port of the invariant with GIE 1 and nothing urgent: the RX engine has no event pending. -/
theorem receiving_of_not_urgent (hinv : s.Inv) (hf : s.fault = none) (hp : s.pstate = .active) (hg : s.gie = true)
    (hu : urgent s = false) : s.Receiving where
  inv := hinv
  noFault := hf
  active := hp
  gieOn := hg
  noEvent := by
    obtain ⟨-, hrx, -⟩ := hinv.portOpen (by simp [hp])
    have hno := (enginePending_eq_false.1 (not_pending_of_gie hg hu)).2
    rwa [hrx, Bool.true_and] at hno
  txDone := ((urgent_eq_false s).1 hu).1

end

/-- Settles O56: the frame tick by tick, and the machine of a host that is done, which follows its schedule. -/
theorem receiveRoundTrip : Obligations.ReceiveRoundTrip := by
  intro s b hinv hf hp hg hc hprev hu hroom
  obtain ⟨t, hfollow, ht⟩ := (receiving_of_not_urgent hinv hf hp hg hu).exists_received hc hprev hroom b
  refine ⟨t, hfollow, ht.stored, ht.head, ht.tail, ht.capture, ht.now, fun hdone => ?_⟩
  rw [← length_frameSchedule s.cfg b]
  exact steps_of_follow hinv.ring.legal hf (List.getElem?_eq_none hdone.ge) hfollow

end Sys2Proof.Machine
end

section
/-! Proofs about the calibration loop, one instruction at a time (44_calibration.md): CALIBRATE (R190), the tuning steps
(R193), CALH (R191 to R195) and the completions of CALIBRATE (R196) and of SHUTDOWN (R218). -/

namespace Sys2Proof.Machine

open Sys2Proof

/-! ### CALIBRATE (R190) and the completions (R196, R218) -/

section

variable {s : State}

theorem exec_calibrate_of_preset (hp : s.pstate = .inactive) (hc : s.cfg.calEnabled = false) :
    exec .calibrate s = .next ((loadPreset s).log 0x0003#16).advance := by
  simp [exec, execCalibrate, hp, hc]

theorem exec_calibrate_of_loop (hp : s.pstate = .inactive) (hc : s.cfg.calEnabled = true) :
    exec .calibrate s = .next (startCalibration s) := by
  simp [exec, execCalibrate, hp, hc]

theorem exec_calibrateComplete_of_enabled (h : calibrateCompleteEnabled s = true) :
    exec .calibrateComplete s = .next ({ s.log (calResult s) with hwait := .none } : State).advance := if_pos h

theorem exec_shutdownComplete_of_enabled (h : shutdownCompleteEnabled s = true) :
    exec .shutdownComplete s = .next ({ s with hwait := .none } : State).advance := if_pos h

theorem calResult_of_done (h : s.calState = .done) : calResult s = 0x0001#16 := if_pos h

theorem calResult_of_fail (h : s.calState = .fail) : calResult s = 0x0002#16 := if_neg (h ▸ nofun)

end

/-- Settles O18: CALIBRATE's three paths. -/
theorem calibrateResult : Obligations.CalibrateResult := fun _ =>
  ⟨exec_calibrate_of_preset, exec_calibrate_of_loop,
    fun hp _ hw => (execCalibrate_of_not_inactive hp).trans (raiseFault_of_word hw _)⟩

/-- Settles O26: each completion is enabled, and CALIBRATE's result word is the one of CAL_STATE. -/
theorem completionResults : Obligations.CompletionResults := by
  intro s hu
  refine ⟨fun hw hd => ?_, fun hw hf => ?_, fun hw hp => ?_⟩
  · have hen := (calibrateCompleteEnabled_iff s).2 ⟨hw, .inl hd, hu⟩
    rw [exec_calibrateComplete_of_enabled hen, calResult_of_done hd]
    rfl
  · have hen := (calibrateCompleteEnabled_iff s).2 ⟨hw, .inr hf, hu⟩
    rw [exec_calibrateComplete_of_enabled hen, calResult_of_fail hf]
    rfl
  · exact exec_shutdownComplete_of_enabled ((shutdownCompleteEnabled_iff s).2 ⟨hw, hp, hu⟩)

/-! ### The tuning steps as numbers (R193) -/

section

variable (t : BitVec 4 × BitVec 8)

theorem toNat_stepDown_lo : (stepDown t).2.toNat = (t.2.toNat + 255) % 256 := by
  show (t.2 - 1).toNat = (t.2.toNat + 255) % 256
  bv_omega

theorem toNat_stepUp_lo : (stepUp t).2.toNat = (t.2.toNat + 1) % 256 := BitVec.toNat_add _ _

/-- R193: the fine register wraps downwards from 0, and the coarse one stays at 0. -/
theorem toNat_stepDown_hi :
    (stepDown t).1.toNat = if t.2.toNat = 0 ∧ 0 < t.1.toNat then t.1.toNat - 1 else t.1.toNat := by
  have hwrap : t.2 - 1 = 255#8 ↔ t.2.toNat = 0 := by bv_omega
  have hfloor : t.1 > 0#4 ↔ 0 < t.1.toNat := BitVec.lt_def
  simp only [stepDown, hwrap, hfloor]
  split
  · bv_omega
  · rfl

/-- R193: the fine register wraps upwards from 255, and the coarse one stays at 15. -/
theorem toNat_stepUp_hi :
    (stepUp t).1.toNat = if t.2.toNat = 255 ∧ t.1.toNat < 15 then t.1.toNat + 1 else t.1.toNat := by
  have hwrap : t.2 + 1 = 0#8 ↔ t.2.toNat = 255 := by bv_omega
  have hceil : t.1 < 15#4 ↔ t.1.toNat < 15 := BitVec.lt_def
  simp only [stepUp, hwrap, hceil]
  split
  · bv_omega
  · rfl

variable {t} {u : BitVec 4 × BitVec 8}

/-- R193: a step down that moves the coarse register is the downward wrap of the fine one. -/
theorem stepDown_wraps (e : u = stepDown t) (h : u.1 ≠ t.1) :
    t.2 = 0#8 ∧ u.2 = 255#8 ∧ u.1.toNat + 1 = t.1.toNat := by
  subst e
  have hlo := toNat_stepDown_lo t
  have hhi := toNat_stepDown_hi t
  simp only [← BitVec.toNat_inj, Ne, BitVec.toNat_ofNat] at h ⊢
  split at hhi
  · omega
  · exact absurd hhi h

/-- R193: a step up that moves the coarse register is the upward wrap of the fine one. -/
theorem stepUp_wraps (e : u = stepUp t) (h : u.1 ≠ t.1) :
    t.2 = 255#8 ∧ u.2 = 0#8 ∧ u.1.toNat = t.1.toNat + 1 := by
  subst e
  have hlo := toNat_stepUp_lo t
  have hhi := toNat_stepUp_hi t
  simp only [← BitVec.toNat_inj, Ne, BitVec.toNat_ofNat] at h ⊢
  split at hhi
  · omega
  · exact absurd hhi h

end

/-- Settles O20: the two registers of each step, as numbers. -/
theorem tuningSteps : Obligations.TuningSteps := fun hi lo =>
  ⟨toNat_stepDown_lo (hi, lo), toNat_stepDown_hi (hi, lo), toNat_stepUp_lo (hi, lo), toNat_stepUp_hi (hi, lo)⟩

/-! ### What CALH does in RUN (R191, R194, R195) -/

/-- R191: `delta`, the length of the reference period that the pending capture ends. -/
def State.delta (s : State) : Nat := subW s.cfg s.ccr1 (prevCapture s)

/-- R191: what every measurement writes. -/
def State.measured (s : State) : State :=
  { s with ifg1 := false, lastCap := some s.ccr1, freeCount := afterPrevCapture s }

/-- R191, R193: one bang-bang step, counted. -/
def State.retune (delta : Nat) (s : State) : State :=
  { s with tuneHi := (retuned delta s).1, tuneLo := (retuned delta s).2, calIter := s.calIter + 1 }

section

variable {s : State} {last : Nat}

theorem prevCapture_of_some (h : s.lastCap = some last) : prevCapture s = last := by simp [prevCapture, h]

theorem afterPrevCapture_of_some (h : s.lastCap = some last) : afterPrevCapture s = s.freeCount := by
  simp [afterPrevCapture, h]

theorem afterPrevCapture_of_none (h : s.lastCap = none) : afterPrevCapture s = s.freeCount + 1 := by
  simp [afterPrevCapture, h]

/-- R192. -/
theorem tooFast_iff (c : Config) (delta : Nat) : tooFast c delta = true ↔
    (c.calSense = .convergent ∧ c.targetDelta < delta) ∨ (c.calSense = .asWritten ∧ delta < c.targetDelta) := by
  unfold tooFast
  cases c.calSense <;> simp

/-- R195. -/
theorem boundReached_iff : boundReached s = true ↔ ∃ n, s.cfg.calMaxIter = some n ∧ n ≤ s.calIter := by
  unfold boundReached
  cases s.cfg.calMaxIter <;> simp

theorem boundReached_eq_false : boundReached s = false ↔ ∀ n, s.cfg.calMaxIter = some n → s.calIter < n := by
  rw [Bool.eq_false_iff, Ne, boundReached_iff]
  simp

theorem calhEnabled_iff : calhEnabled s = true ↔ s.ifg1 = true ∧ (s.calState = .prime ∨ s.calState = .run) := by
  simp [calhEnabled, calibrating]

theorem exec_calh_of_enabled (h : calhEnabled s = true) : exec .calh s = .next (calCapture s) := if_pos h

theorem exec_calh_of_run (hi : s.ifg1 = true) (hr : s.calState = .run) : exec .calh s = .next (calCapture s) :=
  exec_calh_of_enabled (calhEnabled_iff.2 ⟨hi, .inr hr⟩)

/-- R191: the priming capture. -/
theorem calCapture_of_prime (h : s.calState = .prime) :
    calCapture s = { s with ifg1 := false, lastCap := some s.ccr1, calState := .run } := if_pos h

/-- R191: the measurement that converges. -/
theorem calCapture_of_converged (hp : s.calState ≠ .prime) (hd : s.delta = s.cfg.targetDelta) :
    calCapture s = calFinish .done s.measured :=
  (if_neg hp).trans (if_pos hd)

/-- R195: the step at which the count reaches the bound. -/
theorem calCapture_of_bound (hp : s.calState ≠ .prime) (hd : s.delta ≠ s.cfg.targetDelta)
    (hb : boundReached (s.measured.retune s.delta) = true) :
    calCapture s = calFinish .fail (s.measured.retune s.delta) :=
  ((if_neg hp).trans (if_neg hd)).trans (if_pos hb)

/-- R191: a step after which the loop goes on. -/
theorem calCapture_of_missed (hp : s.calState ≠ .prime) (hd : s.delta ≠ s.cfg.targetDelta)
    (hb : boundReached (s.measured.retune s.delta) = false) :
    calCapture s = s.measured.retune s.delta :=
  ((if_neg hp).trans (if_neg hd)).trans (if_neg (Bool.eq_false_iff.1 hb))

/-- R191: a measurement without a previous capture still stores its own and uses one free value. -/
theorem calCapture_measured (hp : s.calState ≠ .prime) :
    (calCapture s).ifg1 = false ∧ (calCapture s).lastCap = some s.ccr1
      ∧ (calCapture s).freeCount = afterPrevCapture s := by
  rcases calCapture_cases s with ⟨h, -⟩ | ⟨-, _, _, _, e⟩ | ⟨-, _, _, _, _, -, e⟩
  · exact absurd h hp
  · exact e ▸ ⟨rfl, rfl, rfl⟩
  · exact e ▸ ⟨rfl, rfl, rfl⟩

/-- R191: what a measurement writes when LAST_CAP holds a value. -/
theorem State.measured_of_some (h : s.lastCap = some last) :
    s.measured = { s with ifg1 := false, lastCap := some s.ccr1 } := by
  rw [State.measured, afterPrevCapture_of_some h]

end

/-- Settles O19: the priming capture, a free LAST_CAP, and in RUN the converged measurement, the bound and the step. -/
theorem calhResult : Obligations.CalhResult := by
  intro s hi
  refine ⟨fun hp => ?_, fun hr hl => ?_, fun last hr hl delta hdelta => ?_⟩
  · rw [exec_calh_of_enabled (calhEnabled_iff.2 ⟨hi, .inl hp⟩), calCapture_of_prime hp]
  · obtain ⟨hflag, hcap, hfree⟩ := calCapture_measured (s := s) (hr ▸ nofun)
    exact ⟨_, exec_calh_of_run hi hr, hflag, hcap, hfree.trans (afterPrevCapture_of_none hl)⟩
  · have hp : s.calState ≠ .prime := hr ▸ nofun
    obtain rfl : delta = s.delta := by rw [hdelta, State.delta, prevCapture_of_some hl]
    rw [exec_calh_of_run hi hr]
    refine ⟨fun hd => ?_, fun down hdown code hcode hd => ?_⟩
    · rw [calCapture_of_converged hp hd, State.measured_of_some hl]
      rfl
    · obtain rfl : down = tooFast s.cfg s.delta := Bool.eq_iff_iff.2 (hdown.trans (tooFast_iff _ _).symm)
      subst hcode
      refine ⟨fun hb => ?_, fun hb => ?_⟩
      · rw [calCapture_of_bound hp hd (boundReached_iff.2 hb), State.measured_of_some hl]
        rfl
      · rw [calCapture_of_missed hp hd (boundReached_eq_false.2 hb), State.measured_of_some hl]
        rfl

/-! ### The coarse register moves at the fine wrap (R197 (a)) -/

/-- R191, R193: a calibration capture leaves the tuning pair, or makes one bang-bang step of it. -/
theorem calCapture_tuning_cases (s : State) :
    ((calCapture s).tuneHi, (calCapture s).tuneLo) = (s.tuneHi, s.tuneLo)
      ∨ ((calCapture s).tuneHi, (calCapture s).tuneLo) = stepDown (s.tuneHi, s.tuneLo)
      ∨ ((calCapture s).tuneHi, (calCapture s).tuneLo) = stepUp (s.tuneHi, s.tuneLo) := by
  by_cases hp : s.calState = .prime
  · exact .inl (by rw [calCapture_of_prime hp])
  by_cases hd : s.delta = s.cfg.targetDelta
  · exact .inl (by rw [calCapture_of_converged hp hd]; rfl)
  have hpair : ((calCapture s).tuneHi, (calCapture s).tuneLo) = retuned s.delta s.measured := by
    cases hb : boundReached (s.measured.retune s.delta) with
    | true => rw [calCapture_of_bound hp hd hb]; rfl
    | false => rw [calCapture_of_missed hp hd hb]; rfl
  rw [hpair]
  exact .inr (ite_eq_or_eq _ _ _)

/-- Settles O21: a tuning step changes the coarse register only at the wrap. -/
theorem coarseMovesAtFineWrap : Obligations.CoarseMovesAtFineWrap := by
  intro s t h hne
  rcases execCalh_next h with ⟨-, rfl⟩ | ⟨-, rfl⟩
  · rcases calCapture_tuning_cases s with e | e | e
    · exact absurd (Prod.mk.inj e).1 hne
    · exact .inl (stepDown_wraps e hne)
    · exact .inr (stepUp_wraps e hne)
  · exact absurd rfl hne

end Sys2Proof.Machine
end

section
/-! Proofs about the convergence of the calibration loop (44_calibration.md R197 (b)), measurement by measurement. -/

namespace Sys2Proof.Machine

open Sys2Proof

/-- R15: the sum read back by `−W`. -/
theorem subW_addW_cancel {c : Config} {a d : Nat} (ha : a < 2 ^ c.timerW) (hd : d < 2 ^ c.timerW) :
    subW c (addW c a d) a = d := by
  rw [subW_eq (addW_lt c a d) ha, addW_eq ha hd]
  split <;> split <;> omega

/-! ### The tuning code (R197) -/

section

variable (s : State)

theorem tuneCode_lt : tuneCode s < 4096 := by
  have hhi := s.tuneHi.isLt
  have hlo := s.tuneLo.isLt
  unfold tuneCode
  omega

variable {s}

/-- R193: below the lowest code there is none, above it a step down is one code down. -/
theorem tuneCode_retune_down {delta : Nat} (h : tooFast s.cfg delta = true) (hpos : 0 < tuneCode s) :
    tuneCode (s.retune delta) + 1 = tuneCode s := by
  have hstep : retuned delta s = stepDown (s.tuneHi, s.tuneLo) := if_pos h
  have hlt := s.tuneLo.isLt
  unfold tuneCode at hpos ⊢
  simp only [State.retune, hstep, toNat_stepDown_hi, toNat_stepDown_lo]
  split <;> omega

/-- R193: below the highest code a step up is one code up. -/
theorem tuneCode_retune_up {delta : Nat} (h : tooFast s.cfg delta = false) (hmax : tuneCode s < 4095) :
    tuneCode (s.retune delta) = tuneCode s + 1 := by
  have hstep : retuned delta s = stepUp (s.tuneHi, s.tuneLo) := if_neg (Bool.eq_false_iff.1 h)
  have hlt := s.tuneLo.isLt
  unfold tuneCode at hmax ⊢
  simp only [State.retune, hstep, toNat_stepUp_hi, toNat_stepUp_lo]
  split <;> omega

end

/-! ### One measurement -/

/-- The state at the end of a reference period of `f code` ticks: the capture that `measureOnce` hands to CALH. -/
def State.periodEnd (f : Nat → Nat) (s : State) : State :=
  { s with ifg1 := true, ccr1 := addW s.cfg (prevCapture s) (f (tuneCode s)) }

/-- The state after a reference period away from the exact code: one bang-bang step has been made. -/
def State.missed (f : Nat → Nat) (s : State) : State := (s.periodEnd f).measured.retune (f (tuneCode s))

/-- R197: an oscillator that runs strictly faster at every higher code, measured without aliasing (R286), and a code
that is exact. -/
structure Oscillator (f : Nat → Nat) (c : Config) (target : Nat) : Prop where
  mono : StrictMonoOn f (Set.Iio 4096)
  range : ∀ a, a < 4096 → f a < 2 ^ c.timerW
  isCode : target < 4096
  onTarget : f target = c.targetDelta

/-- The CONVERGENT loop `dist` codes away from the exact one, with no bound in the way of as many steps. -/
structure State.Approaching (s : State) (target dist : Nat) : Prop where
  sense : s.cfg.calSense = .convergent
  running : s.calState = .run
  captured : ∃ last, s.lastCap = some last ∧ last < 2 ^ s.cfg.timerW
  distance : dist + target = tuneCode s ∨ dist + tuneCode s = target
  noBound : ∀ n, s.cfg.calMaxIter = some n → s.calIter + dist < n

section

variable {f : Nat → Nat} {s : State} {target dist : Nat}

theorem measureOnce_of_run (h : s.calState = .run) : measureOnce f s = .next (calCapture (s.periodEnd f)) :=
  exec_calh_of_run (s := s.periodEnd f) rfl h

theorem calibrationRun_of_run (h : s.calState = .run) (n : Nat) :
    calibrationRun f (n + 1) s = calibrationRun f n (calCapture (s.periodEnd f)) := by
  rw [calibrationRun, if_pos h, measureOnce_of_run h]

/-- R197: the measured delta is the oscillator's answer to the present code. -/
theorem State.Approaching.delta_periodEnd (h : s.Approaching target dist) (ho : Oscillator f s.cfg target) :
    (s.periodEnd f).delta = f (tuneCode s) := by
  obtain ⟨last, hl, hlast⟩ := h.captured
  have hprev : prevCapture s = last := prevCapture_of_some hl
  show subW s.cfg (addW s.cfg (prevCapture s) (f (tuneCode s))) (prevCapture s) = f (tuneCode s)
  rw [hprev]
  exact subW_addW_cancel hlast (ho.range _ (tuneCode_lt s))

/-- R191: at the exact code the measurement converges. -/
theorem State.Approaching.calCapture_exact (h : s.Approaching target 0) (ho : Oscillator f s.cfg target) :
    tuneCode s = target ∧ calCapture (s.periodEnd f) = calFinish .done (s.periodEnd f).measured := by
  have hcode : tuneCode s = target := by
    have := h.distance
    omega
  have hp : s.calState ≠ .prime := h.running ▸ nofun
  refine ⟨hcode, calCapture_of_converged (s := s.periodEnd f) hp ?_⟩
  rw [h.delta_periodEnd ho, hcode]
  exact ho.onTarget

/-- R192: away from the exact code the CONVERGENT test says on which side the present code is. -/
theorem State.Approaching.tooFast_iff_above (h : s.Approaching target dist) (ho : Oscillator f s.cfg target) :
    tooFast s.cfg (f (tuneCode s)) = true ↔ target < tuneCode s := by
  rw [tooFast_iff, h.sense, ← ho.onTarget]
  simp only [true_and, reduceCtorEq, false_and, or_false]
  exact ho.mono.lt_iff_lt ho.isCode (tuneCode_lt s)

/-- R191, R195: a measurement away from the exact code is one bang-bang step, and the loop goes on. -/
theorem State.Approaching.calCapture_inexact (h : s.Approaching target (dist + 1)) (ho : Oscillator f s.cfg target) :
    calCapture (s.periodEnd f) = s.missed f := by
  have hne : tuneCode s ≠ target := by
    have := h.distance
    omega
  have hd := h.delta_periodEnd ho
  have hinexact : (s.periodEnd f).delta ≠ s.cfg.targetDelta := by
    rw [hd, ← ho.onTarget]
    exact mt (ho.mono.injOn (tuneCode_lt s) ho.isCode) hne
  rw [State.missed, ← hd]
  have hp : s.calState ≠ .prime := h.running ▸ nofun
  refine calCapture_of_missed (s := s.periodEnd f) hp hinexact (boundReached_eq_false.2 fun n hn => ?_)
  show s.calIter + 1 < n
  have := h.noBound n hn
  omega

/-- R193, R197: the bang-bang step comes one code nearer to the exact one. -/
theorem State.Approaching.nearer (h : s.Approaching target (dist + 1)) (ho : Oscillator f s.cfg target) :
    (s.missed f).Approaching target dist where
  sense := h.sense
  running := h.running
  captured := ⟨_, rfl, addW_lt _ _ _⟩
  distance := by
    have hdist := h.distance
    have hmax := ho.isCode
    have hside := h.tooFast_iff_above ho
    cases hfast : tooFast s.cfg (f (tuneCode s)) with
    | true =>
      have habove := hside.1 hfast
      have hdown : tuneCode (s.missed f) + 1 = tuneCode s :=
        tuneCode_retune_down (s := (s.periodEnd f).measured) hfast (Nat.zero_lt_of_lt habove)
      omega
    | false =>
      have hbelow := mt hside.2 (Bool.eq_false_iff.1 hfast)
      have hup : tuneCode (s.missed f) = tuneCode s + 1 :=
        tuneCode_retune_up (s := (s.periodEnd f).measured) hfast (show tuneCode s < 4095 by omega)
      omega
  noBound := fun n hn => by
    show s.calIter + 1 + dist < n
    have := h.noBound n hn
    omega

/-- R197 (b): `dist` steps and the measurement that converges. -/
theorem State.Approaching.converges (h : s.Approaching target dist) (ho : Oscillator f s.cfg target) :
    ∃ t, calibrationRun f (dist + 1) s = .next t ∧ t.calState = .done ∧ tuneCode t = target
      ∧ t.calIter = s.calIter + dist := by
  induction dist generalizing s with
  | zero =>
    obtain ⟨hcode, hdone⟩ := h.calCapture_exact ho
    exact ⟨_, calibrationRun_of_run h.running 0, hdone ▸ rfl, hdone ▸ hcode, hdone ▸ rfl⟩
  | succ dist ih =>
    obtain ⟨t, hrun, hst, hcode, hiter⟩ := ih (h.nearer ho) ho
    refine ⟨t, ?_, hst, hcode, hiter.trans (Nat.add_right_comm s.calIter 1 dist)⟩
    rw [calibrationRun_of_run h.running, h.calCapture_inexact ho, hrun]

end

/-- Settles O22, by induction on the distance to the exact code. -/
theorem calibrationConverges : Obligations.CalibrationConverges := by
  intro s f target dist last _ hsense hrun hl hlast hmono hrange hcode hexact hdist hbound
  have ho : Oscillator f s.cfg target := ⟨fun a _ b hb hab => hmono a b hab hb, hrange, hcode, hexact⟩
  exact State.Approaching.converges ⟨hsense, hrun, ⟨last, hl, hlast⟩, hdist, hbound⟩ ho

end Sys2Proof.Machine
end

section
/-! Proofs about port control, one instruction at a time (45_port_control.md): INIT (R210), SHUTDOWN (R211, R212), HOLDH
(R213), EINT and DINT (R214, R215), and the words of STATUS and READ_TUNING (R216, R217). -/

namespace Sys2Proof.Machine

open Sys2Proof

/-! ### INIT (R210), SHUTDOWN (R211, R212) and HOLDH (R213) -/

section

variable {s : State}

theorem exec_init_of_closed (hp : s.pstate = .inactive) (hg : s.gie = false) :
    exec .init s = .next (activate s).advance := by
  simp [exec, execInit, hp, hg]

theorem exec_shutdown_of_idle (hp : s.pstate ≠ .inactive) (ht : s.txIe = false) :
    exec .shutdown s = .next (startHold s) := by
  simp [exec, execShutdown, hp, ht]

theorem exec_holdh_of_enabled (h : holdhEnabled s = true) : exec .holdh s = .next (release s) := if_pos h

theorem holdhEnabled_iff : holdhEnabled s = true ↔
    s.ifg0 = true ∧ s.pstate = .holding ∧ rxcaphEnabled s = false ∧ rxsmphEnabled s = false := by
  simp [holdhEnabled, and_assoc]

end

/-- Settles O23: INIT's three paths. -/
theorem initResult : Obligations.InitResult := fun _ =>
  ⟨exec_init_of_closed, fun _ hw =>
    ⟨fun hp => (execInit_of_not_inactive hp).trans (raiseFault_of_word hw _),
      fun hp hg => (execInit_of_gie hp hg).trans (raiseFault_of_word hw _)⟩⟩

/-- Settles O24: SHUTDOWN's three paths, and SHUTDOWN_START, which is the last of them. -/
theorem shutdownResult : Obligations.ShutdownResult := fun _ =>
  ⟨exec_shutdown_of_idle, rfl, fun hp ht => exec_of_held (by simp [commandHeld, hp, ht]),
    fun hp _ hw => (execShutdown_of_inactive hp).trans (raiseFault_of_word hw _)⟩

/-- Settles O25: HOLDH is enabled. -/
theorem holdhResult : Obligations.HoldhResult := fun _ hi hp hcap hsmp =>
  exec_holdh_of_enabled (holdhEnabled_iff.2 ⟨hi, hp, hcap, hsmp⟩)

/-! ### EINT and DINT (R214, R215) -/

/-- R110, R214: with GIE 1 a pending event of an engine is urgent. -/
theorem urgent_of_pending {s : State} (hg : s.gie = true) (h : enginePending s = true) : urgent s = true := by
  by_contra hu
  exact nomatch h.symm.trans (not_pending_of_gie hg (Bool.eq_false_iff.2 hu))

/-- Settles O27: EINT leaves the flags and their enables alone, so an event pending before it is unmasked after it. -/
theorem interruptEnableResult : Obligations.InterruptEnableResult := by
  refine fun s => ⟨rfl, rfl, fun t h hp => ?_⟩
  have hpending : enginePending s = true := enginePending_iff.2 (hp.imp And.symm And.symm)
  cases h
  exact urgent_of_pending (s := ({ s with gie := true } : State).advance) rfl hpending

/-! ### STATUS (R216) and READ_TUNING (R217) -/

/-- R216: a condition stands at its bit, and nowhere else. -/
theorem getLsbD_statusBit (v : Bool) {k : Nat} (hk : k < 16) (j : Nat) :
    (statusBit v k).getLsbD j = (decide (j = k) && v) := by
  rw [statusBit, BitVec.getLsbD_shiftLeft, BitVec.getLsbD_setWidth]
  rcases Nat.lt_trichotomy j k with h | rfl | h
  · simp [h, Nat.ne_of_lt h]
  · simp [hk]
  · simp [Nat.ne_of_gt h, Nat.sub_ne_zero_of_lt h, BitVec.getLsbD_ofBool]

/-- R216: the STATUS word, bit by bit. -/
theorem getLsbD_statusWord (s : State) (j : Nat) : (statusWord s).getLsbD j =
    ((decide (j = 0) && s.pstate != .inactive) || (decide (j = 1) && s.txIe)
      || (decide (j = 2) && (s.pstate != .inactive && !s.cap1)) || (decide (j = 3) && s.calState == .done)
      || (decide (j = 4) && s.calState == .fail) || (decide (j = 5) && s.calState == .preset)
      || (decide (j = 6) && s.gie) || (decide (j = 7) && ringEmpty s)) := by
  simp [statusWord, getLsbD_statusBit]

/-- R216: bits 15:8 are 0. -/
theorem getLsbD_statusWord_high (s : State) {j : Nat} (hj : 8 ≤ j) : (statusWord s).getLsbD j = false := by
  have hne : ∀ k < 8, j ≠ k := fun k hk => Nat.ne_of_gt (Nat.lt_of_lt_of_le hk hj)
  simp [getLsbD_statusWord, hne]

/-- R217: `{0, TUNE_HI, TUNE_LO}` as a number. -/
theorem toNat_tuningWord (hi : BitVec 4) (lo : BitVec 8) : (tuningWord hi lo).toNat = hi.toNat * 256 + lo.toNat := by
  rw [tuningWord, BitVec.toNat_append, BitVec.toNat_append, ← Nat.shiftLeft_add_eq_or_of_lt lo.isLt, Nat.shiftLeft_eq]
  simp [Nat.shiftLeft_eq]

/-- Settles O28: each word is the model's, and its bits or its number are read off it. -/
theorem observationResults : Obligations.ObservationResults := by
  refine ⟨fun s => ⟨statusWord s, rfl, ?_, ?_, ?_, ?_, ?_, ?_, ?_, ?_, fun _ => getLsbD_statusWord_high s⟩,
    fun s => ⟨_, rfl, toNat_tuningWord s.tuneHi s.tuneLo⟩⟩
  all_goals
    rw [getLsbD_statusWord]
    simp [ringEmpty]

end Sys2Proof.Machine
end

section
/-! Proofs about the host's steps and the port's life (45_port_control.md): HPC (R219), PSTATE (R221), and the model's
convention for placing a command word (notes/assumptions/9.md). -/

namespace Sys2Proof.Machine

open Sys2Proof

/-! ### A word placed for the host (notes/assumptions/9.md) -/

theorem getElem?_placeWord (w : Word) (i : Nat) (l : List Word) : (placeWord w i l)[i]? = some w := by
  induction i generalizing l with
  | zero => cases l <;> rfl
  | succ i ih => cases l <;> exact ih _

theorem tableWord_of_lt {w : Nat} (h : w < 2 ^ 16) : tableWord 16 w = BitVec.ofNat 16 w := by
  rw [tableWord, Nat.mod_eq_of_lt h]

/-- R116: placing a word clears the flags where they make a handler urgent. -/
theorem not_urgent_fetchNext (w : Word) (s : State) : urgent (fetchNext w s) = false := by
  cases hu : urgent s with
  | true => exact not_urgent_of_no_flags (by simp [fetchNext, hu]) (by simp [fetchNext, hu])
  | false =>
    have h0 : (fetchNext w s).ifg0 = s.ifg0 := by simp [fetchNext, hu]
    have h1 : (fetchNext w s).ifg1 = s.ifg1 := by simp [fetchNext, hu]
    rw [← hu]
    simp only [urgent, txhEnabled, holdhEnabled, rxcaphEnabled, rxsmphEnabled, calhEnabled, h0, h1]
    rfl

/-- Settles O13: the placed word is the host's next command in a state in which the host has a step. -/
theorem fetchWordRunsNext : Obligations.FetchWordRunsNext := by
  intro s w i hl hd hw
  obtain ⟨hstep, -⟩ := stepRunsDecodedCommand (fetchNext (BitVec.ofNat 16 w) s) _ i hl rfl rfl
    (not_urgent_fetchNext _ s) (getElem?_placeWord _ s.hpc s.hprog) hd
  rw [State.withFetchWord, tableWord_of_lt hw]
  exact hstep s.sched rfl

/-! ### HPC (R219) -/

section

variable {c : Choice} {i : Instr} {s t : State}

/-- A step of the machine is a move of R110's table, or changes the schedule alone. -/
theorem step_moves_or_held (h : step s = .next t) : ∃ l, (∃ c, Moves c (s.withSched l) t) ∨ t = s.withSched l := by
  rcases step_chosen h with ⟨c, -, hm, ht⟩ | ⟨-, rfl⟩
  · exact ⟨_, .inl ⟨c, (moves_of_mayTake hm ht).2⟩⟩
  · exact ⟨_, .inr rfl⟩

/-- R241: an instruction leaves FAULT alone, or records the word at HPC in it and writes nothing else. -/
theorem exec_fault_cases (h : exec i s = .next t) :
    t.fault = s.fault ∨ ∃ code w, s.hprog[s.hpc]? = some w ∧ t = s.withFault ⟨code, w⟩ := by
  cases i with
  | calibrate =>
    rcases execCalibrate_next h with ⟨-, w, hw, rfl⟩ | ⟨-, -, rfl⟩ | ⟨-, -, rfl⟩
    exacts [.inr ⟨_, w, hw, rfl⟩, .inl rfl, .inl rfl]
  | init =>
    rcases execInit_next h with ⟨-, w, hw, rfl⟩ | ⟨-, -, w, hw, rfl⟩ | ⟨-, -, rfl⟩
    exacts [.inr ⟨_, w, hw, rfl⟩, .inr ⟨_, w, hw, rfl⟩, .inl rfl]
  | shutdown =>
    rcases execShutdown_next h with ⟨-, w, hw, rfl⟩ | ⟨-, -, rfl⟩ | ⟨-, -, rfl⟩
    exacts [.inr ⟨_, w, hw, rfl⟩, .inl rfl, .inl rfl]
  | send b =>
    rcases execSend_next h with ⟨-, w, hw, rfl⟩ | ⟨-, -, rfl⟩ | ⟨-, -, rfl⟩
    exacts [.inr ⟨_, w, hw, rfl⟩, .inl rfl, .inl rfl]
  | readUnchecked =>
    rcases execReadUnchecked_next h with ⟨-, w, hw, rfl⟩ | ⟨-, b, -, -, rfl⟩
    exacts [.inr ⟨_, w, hw, rfl⟩, .inl rfl]
  | read => rcases execRead_next h with ⟨-, rfl⟩ | ⟨-, b, -, -, rfl⟩ <;> exact .inl rfl
  | available | isEmpty | eint | dint | status | readTuning | shutdownStart =>
    cases h
    exact .inl rfl
  | tick =>
    obtain ⟨_, _, _, _, _, _, e, -⟩ := tickBody_frame s
    rcases execTick_next h with ⟨-, rfl⟩ | ⟨-, rfl⟩
    exacts [.inl rfl, .inl (e ▸ rfl)]
  | env line v => rcases execEnv_next h with ⟨-, rfl⟩ | ⟨-, rfl⟩ <;> exact .inl rfl
  | push b => rcases execPush_next h with ⟨-, rfl⟩ | ⟨-, -, rfl⟩ <;> exact .inl rfl
  | txh => rcases execTxh_next h with ⟨-, rfl⟩ | ⟨-, rfl⟩ <;> exact .inl rfl
  | rxcaph => rcases execRxcaph_next h with ⟨-, rfl⟩ | ⟨-, rfl⟩ <;> exact .inl rfl
  | rxsmph =>
    rcases execRxsmph_next h with ⟨-, rfl⟩ | ⟨-, -, rfl⟩ | ⟨-, -, -, rfl⟩ | ⟨-, -, -, -, rfl⟩ <;> exact .inl rfl
  | calh =>
    rcases execCalh_next h with ⟨-, rfl⟩ | ⟨-, rfl⟩
    · rcases calCapture_cases s with ⟨-, e⟩ | ⟨-, _, _, _, e⟩ | ⟨-, _, _, _, _, -, e⟩ <;> exact .inl (e ▸ rfl)
    · exact .inl rfl
  | holdh => rcases execHoldh_next h with ⟨-, rfl⟩ | ⟨-, rfl⟩ <;> exact .inl rfl
  | shutdownComplete => rcases execShutdownComplete_next h with ⟨-, rfl⟩ | ⟨-, rfl⟩ <;> exact .inl rfl
  | calibrateComplete => rcases execCalibrateComplete_next h with ⟨-, rfl⟩ | ⟨-, rfl⟩ <;> exact .inl rfl

/-- R110, R241: a move raises no fault, or writes FAULT alone. -/
theorem moves_fault_cases (h : Moves c s t) : t.fault = none ∨ ∃ r, t = s.withFault r := by
  rcases moves_exec h with ⟨i, he, -⟩ | hr
  · rcases exec_fault_cases he with e | ⟨code, w, -, rfl⟩
    exacts [.inl (e.trans (fault_none_of_enabled h.1)), .inr ⟨_, rfl⟩]
  · exact .inr hr

/-- R219: only the host advances HPC, from a command of HPROG that it completes. -/
theorem moves_hpc_cases (h : Moves c s t) :
    t.hpc = s.hpc ∨ (t.hpc = s.hpc + 1 ∧ s.hpc < s.hprog.length ∧ t.hwait = .none ∧ t.fault = none) := by
  by_cases hc : c = .host
  · subst hc
    rcases moves_fault_cases h with hf | ⟨r, rfl⟩
    · obtain ⟨-, w, hw, -⟩ := hostEnabled_cases ((enabled_host_iff s).1 h.1).2
      obtain ⟨-, ⟨hpc, hwait⟩ | ⟨hpc, -, -⟩⟩ := hostStep_advances_or_waits h hf
      · exact .inr ⟨hpc, lt_length_of_getElem? hw, hwait, hf⟩
      · exact .inl hpc
    · exact .inl rfl
  · obtain ⟨-, -, -, hpc, -⟩ := moves_keeps_host h hc
    exact .inl hpc

/-! ### PSTATE (R221) -/

/-- R221: the port's three edges. -/
def State.PortEdge (s t : State) : Prop :=
  (s.pstate = .inactive ∧ t.pstate = .active) ∨ (s.pstate = .active ∧ t.pstate = .holding)
    ∨ (s.pstate = .holding ∧ t.pstate = .inactive)

/-- R210, R211, R213: INIT, SHUTDOWN and HOLDH each move the port along one edge. SHUTDOWN_START is left out: it is a
part of SHUTDOWN, which tests its conditions (R211, R212). -/
theorem exec_portEdge (h : exec i s = .next t) (hi : i ≠ .shutdownStart) (hne : t.pstate ≠ s.pstate) :
    s.PortEdge t := by
  obtain ⟨-, -, -, -, -, hwriters, -⟩ := elementWriters i s t h
  rcases hwriters hne with rfl | rfl | rfl | rfl
  · rcases execInit_next h with ⟨-, w, -, rfl⟩ | ⟨-, -, w, -, rfl⟩ | ⟨hp, -, rfl⟩
    · exact absurd rfl hne
    · exact absurd rfl hne
    · exact .inl ⟨hp, rfl⟩
  · rcases execShutdown_next h with ⟨-, w, -, rfl⟩ | ⟨-, -, rfl⟩ | ⟨hp, -, rfl⟩
    · exact absurd rfl hne
    · exact absurd rfl hne
    · refine .inr (.inl ⟨?_, rfl⟩)
      cases hs : s.pstate with
      | inactive => exact absurd hs hp
      | active => rfl
      | holding => exact absurd hs.symm hne
  · exact absurd rfl hi
  · rcases execHoldh_next h with ⟨hen, rfl⟩ | ⟨-, rfl⟩
    · obtain ⟨-, hp, -⟩ := holdhEnabled_iff.1 hen
      exact .inr (.inr ⟨hp, rfl⟩)
    · exact absurd rfl hne

/-- R110: no row of the table is SHUTDOWN_START. -/
theorem moves_portEdge (h : Moves c s t) (hne : t.pstate ≠ s.pstate) : s.PortEdge t := by
  cases c with
  | host =>
    obtain ⟨-, w, -, ⟨-, -, -, rfl⟩ | ⟨-, -, i, hd, he⟩ | ⟨-, -, he⟩ | ⟨-, -, he⟩⟩ :=
      hostStep_cases ((enabled_host_iff s).1 h.1).2 h.2
    · exact absurd rfl hne
    · exact exec_portEdge he (fun e => nomatch e ▸ decode_wellFormed hd) hne
    · exact exec_portEdge he nofun hne
    · exact exec_portEdge he nofun hne
  | tick | env | txh | holdh | rxcaph | rxsmph | calh =>
    obtain ⟨-, he⟩ := h
    simp only [take] at he
    exact exec_portEdge he nofun hne

end

/-- Settles O47, by what a move of R110's table does to HPC. -/
theorem hostCounterAdvance : Obligations.HostCounterAdvance := by
  intro s t h
  obtain ⟨l, ⟨c, hm⟩ | rfl⟩ := step_moves_or_held h
  · exact ⟨(moves_keeps_hprog_sched hm).1, moves_hpc_cases (s := s.withSched l) hm⟩
  · exact ⟨rfl, .inl rfl⟩

/-- Settles O48, by the edge of each move of R110's table; the invariant is not needed. -/
theorem portLifecycle : Obligations.PortLifecycle := by
  intro s t _ h hne
  obtain ⟨l, ⟨c, hm⟩ | rfl⟩ := step_moves_or_held h
  · exact moves_portEdge (s := s.withSched l) hm hne
  · exact absurd rfl hne

end Sys2Proof.Machine
end

section
/-! Proofs about the idle hold of a SHUTDOWN (45_port_control.md R222), in the default order of steps
(notes/assumptions/6.md). -/

namespace Sys2Proof.Machine

open Sys2Proof

section

variable {s : State}

/-- R118: a host that waits on SHUTDOWN has no step while the port is open. -/
theorem hostEnabled_of_open (hw : s.hwait = .shutdown) (hp : s.pstate ≠ .inactive) : hostEnabled s = false := by
  rw [Bool.eq_false_iff, Ne, hostEnabled_iff]
  simp [hw, hp]

/-- R213: HOLDH runs in its turn, after TXH and the RX handlers. -/
theorem step_of_holdhEnabled (hl : s.cfg.legal = true) (hf : s.fault = none) (hs : s.sched = [])
    (ht : txhEnabled s = false) (he : holdhEnabled s = true) : step s = .next (release s) := by
  obtain ⟨-, -, hcap, hsmp⟩ := holdhEnabled_iff.1 he
  have hc : defaultChoice s = .holdh := by simp [defaultChoice, ht, hcap, hsmp, he]
  rw [step_of_default hl hf hs, hc]
  exact exec_holdh_of_enabled he

/-- R218: the completion of SHUTDOWN runs once no handler is urgent. -/
theorem step_of_shutdownComplete {w : Word} (hl : s.cfg.legal = true) (hf : s.fault = none) (hs : s.sched = [])
    (hword : s.hprog[s.hpc]? = some w) (he : shutdownCompleteEnabled s = true) :
    step s = .next ({ s with hwait := .none } : State).advance := by
  obtain ⟨hw, hp, hu⟩ := (shutdownCompleteEnabled_iff s).1 he
  have hh : hostEnabled s = true := (hostEnabled_iff s).2 ⟨hu, w, hword, .inr (.inl ⟨hw, hp⟩)⟩
  have hc : defaultChoice s = .host := by simp [defaultChoice_of_not_urgent hu, hh]
  have hcomplete : hostStep s = exec .shutdownComplete s := by simp [hostStep, hw]
  rw [step_of_default hl hf hs, hc]
  exact hcomplete.trans (exec_shutdownComplete_of_enabled he)

/-- R118, R211: a SHUTDOWN on a listening port is the machine's next step, and starts the hold. -/
theorem State.Listening.step_shutdown (h : s.Listening) (hs : s.sched = []) (hw : s.hwait = .none)
    (hp : s.hprog[s.hpc]? = some 0x3000#16) : step s = .next (Machine.startHold s) := by
  have hd : decode 0x3000#16 = .ok .shutdown := rfl
  have hready : commandReady 0x3000#16 s = true := by simp [commandReady_iff, h.txIdle]
  obtain ⟨-, hstep⟩ := stepRunsDecodedCommand s _ _ h.inv.ring.legal h.noFault hw h.not_urgent hp hd
  rw [hstep hs hready, exec_shutdown_of_idle (by simp [h.active]) h.txIdle]

/-- R212: the hold ends at the compare TPB ticks after it began. -/
theorem State.Listening.startHold_awaits (h : s.Listening) (hs : s.sched = []) (hr : s.rxdIn = true) :
    (Machine.startHold s).AwaitsCompare s.cfg.tpb := by
  have hinv := h.inv
  obtain ⟨-, -, hline, hedge, hcont, -⟩ := hinv.portOpen (by simp [h.active])
  have hd := (Config.timer_of_legal hinv.ring.legal).2.2.2
  exact {
    legal := hinv.ring.legal
    noFault := h.noFault
    noSched := hs
    hostIdle := hostEnabled_of_open rfl nofun
    counting := hcont
    rxQuiet := ⟨h.rxIdle, hline, hedge, hr, h.noEdge, h.nothingPending⟩
    noFlag := rfl
    tarRange := hinv.tarRange
    compare := rfl
    inRange := Nat.lt_of_le_of_lt (Nat.le_add_right _ _) hd }

/-- R213, R218: at the compare that ends a hold, HOLDH releases the port and SHUTDOWN completes. -/
theorem steps_holdEnd {w : Word} (hl : s.cfg.legal = true) (hf : s.fault = none) (hs : s.sched = [])
    (ht : s.txIe = false) (h0 : s.ifg0 = true) (h1 : s.ifg1 = false) (hp : s.pstate = .holding)
    (hw : s.hwait = .shutdown) (hword : s.hprog[s.hpc]? = some w) :
    steps 2 s = .next ({ release s with hwait := .none } : State).advance := by
  have hheld : holdhEnabled s = true :=
    holdhEnabled_iff.2 ⟨h0, hp, by simp [rxcaphEnabled, h1], by simp [rxsmphEnabled, h1]⟩
  have hrel : step s = .next (release s) := step_of_holdhEnabled hl hf hs (by simp [txhEnabled, ht]) hheld
  have hend : shutdownCompleteEnabled (release s) = true :=
    (shutdownCompleteEnabled_iff _).2 ⟨hw, rfl, not_urgent_of_no_flags rfl rfl⟩
  refine (steps_add (m := 1) (n := 1) (steps_one hrel)).trans ?_
  exact steps_one (step_of_shutdownComplete hl hf hs hword hend)

end

/-- Settles O55: the SHUTDOWN, the ticks of the hold, and at its compare HOLDH and the completion. -/
theorem shutdownHold : Obligations.ShutdownHold := by
  intro s h hs hr hw hp _
  have hstart : steps 1 s = .next (startHold s) := steps_one (h.step_shutdown hs hw hp)
  have hwait := h.startHold_awaits hs hr
  have htpb : 1 ≤ s.cfg.tpb := Nat.le_of_succ_le (Config.timer_of_legal hwait.legal).2.2.1
  refine ⟨fun m hm => ⟨(startHold s).elapsed m, ?_, rfl, rfl, rfl⟩,
    ({ release (ch0Compare ((startHold s).elapsed s.cfg.tpb)) with hwait := .none } : State).advance, ?_,
    rfl, rfl, rfl, rfl, rfl, rfl⟩
  · rw [steps_add hstart, hwait.steps_before hm]
  · rw [Nat.add_assoc, steps_add hstart, steps_add (hwait.steps_compare htpb)]
    exact steps_holdEnd hwait.legal hwait.noFault hwait.noSched h.txIdle rfl h.nothingPending rfl rfl hp

end Sys2Proof.Machine
end

section
/-! Proofs about faults (60_exceptions.md R240, R241): which command raises which code, exactly when, and that a faulted
state has no step. -/

namespace Sys2Proof.Machine

open Sys2Proof

/-! ### A state with FAULT set (R241) -/

/-- Settles O16: every row of R110's table requires `FAULT = nothing`, and the recorded word is one of the program. -/
theorem faultedStateHasNoStep : Obligations.FaultedStateHasNoStep := by
  refine ⟨fun s code w hw => raiseFault_of_word hw code, fun s r hf => ⟨fun c => ?_, ?_, fun hinv => ?_, fun hl => ?_⟩⟩
  · simp [enabled, hf]
  · simp [quiescent, hf]
  · have hpc : s.hpc < s.hprog.length := lt_length_of_getElem? (hinv.faultWord r hf)
    simp [hostDone, Nat.ne_of_lt hpc]
  · simp [step, hl, hf]

/-! ### Which command raises which fault (R240) -/

/-- R240's table without ILLEGAL_COMMAND, which is raised before there is an instruction: the commands that fault, each
with its code and its condition. -/
def Raises (i : Instr) (code : FaultCode) (s : State) : Prop :=
  (i = .readUnchecked ∧ code = .uncheckedReadEmpty ∧ s.head = s.tail)
    ∨ ((∃ b, i = .send b) ∧ code = .sendInactive ∧ s.pstate ≠ .active)
    ∨ (i = .init ∧ code = .initActive ∧ s.pstate ≠ .inactive)
    ∨ (i = .init ∧ code = .initWithGie ∧ s.pstate = .inactive ∧ s.gie = true)
    ∨ (i = .shutdown ∧ code = .shutdownInactive ∧ s.pstate = .inactive)
    ∨ (i = .calibrate ∧ code = .calibrateActive ∧ s.pstate ≠ .inactive)

section

variable {i : Instr} {code : FaultCode} {s t : State}

/-- R240, from the condition to the fault. -/
theorem exec_of_raises (h : Raises i code s) : exec i s = raiseFault code s := by
  rcases h with ⟨rfl, rfl, he⟩ | ⟨⟨b, rfl⟩, rfl, hp⟩ | ⟨rfl, rfl, hp⟩ | ⟨rfl, rfl, hp, hg⟩ | ⟨rfl, rfl, hp⟩ |
    ⟨rfl, rfl, hp⟩
  exacts [execReadUnchecked_of_empty he, execSend_of_not_active hp b, execInit_of_not_inactive hp,
    execInit_of_gie hp hg, execShutdown_of_inactive hp, execCalibrate_of_not_inactive hp]

/-- R191, R194: the calibration loop writes nothing of the port, the transmit engine or FAULT. -/
theorem calCapture_keeps_port (s : State) :
    (calCapture s).fault = s.fault ∧ (calCapture s).pstate = s.pstate ∧ (calCapture s).txd = s.txd
      ∧ (calCapture s).txIe = s.txIe ∧ (calCapture s).txsr = s.txsr := by
  rcases calCapture_cases s with ⟨-, e⟩ | ⟨-, _, _, _, e⟩ | ⟨-, _, _, _, _, -, e⟩ <;>
    exact e ▸ ⟨rfl, rfl, rfl, rfl, rfl⟩

/-- R240, from the fault to the condition: outside the table FAULT is left alone. -/
theorem fault_kept_or_raises (h : exec i s = .next t) : t.fault = s.fault ∨ ∃ code, Raises i code s := by
  cases i with
  | readUnchecked =>
    rcases execReadUnchecked_next h with ⟨he, -⟩ | ⟨-, _, -, -, rfl⟩
    exacts [.inr ⟨.uncheckedReadEmpty, by simp [Raises, ringEmpty_eq_true.1 he]⟩, .inl rfl]
  | send b =>
    rcases execSend_next h with ⟨hp, -⟩ | ⟨-, -, rfl⟩ | ⟨-, -, rfl⟩
    exacts [.inr ⟨.sendInactive, by simp [Raises, hp]⟩, .inl rfl, .inl rfl]
  | init =>
    rcases execInit_next h with ⟨hp, -⟩ | ⟨hp, hg, -⟩ | ⟨-, -, rfl⟩
    exacts [.inr ⟨.initActive, by simp [Raises, hp]⟩, .inr ⟨.initWithGie, by simp [Raises, hp, hg]⟩, .inl rfl]
  | shutdown =>
    rcases execShutdown_next h with ⟨hp, -⟩ | ⟨-, -, rfl⟩ | ⟨-, -, rfl⟩
    exacts [.inr ⟨.shutdownInactive, by simp [Raises, hp]⟩, .inl rfl, .inl rfl]
  | calibrate =>
    rcases execCalibrate_next h with ⟨hp, -⟩ | ⟨-, -, rfl⟩ | ⟨-, -, rfl⟩
    exacts [.inr ⟨.calibrateActive, by simp [Raises, hp]⟩, .inl rfl, .inl rfl]
  | read => rcases execRead_next h with ⟨-, rfl⟩ | ⟨-, _, -, -, rfl⟩ <;> exact .inl rfl
  | available | isEmpty | eint | dint | status | readTuning | shutdownStart =>
    cases h
    exact .inl rfl
  | tick =>
    obtain ⟨_, _, _, _, _, _, e, -⟩ := tickBody_frame s
    rcases execTick_next h with ⟨-, rfl⟩ | ⟨-, rfl⟩
    exacts [.inl rfl, .inl (e ▸ rfl)]
  | env line v => rcases execEnv_next h with ⟨-, rfl⟩ | ⟨-, rfl⟩ <;> exact .inl rfl
  | push b => rcases execPush_next h with ⟨-, rfl⟩ | ⟨-, -, rfl⟩ <;> exact .inl rfl
  | rxsmph =>
    rcases execRxsmph_next h with ⟨-, rfl⟩ | ⟨-, -, rfl⟩ | ⟨-, -, -, rfl⟩ | ⟨-, -, -, -, rfl⟩ <;> exact .inl rfl
  | calh =>
    rcases execCalh_next h with ⟨-, rfl⟩ | ⟨-, rfl⟩
    exacts [.inl (calCapture_keeps_port s).1, .inl rfl]
  | txh | rxcaph | holdh | shutdownComplete | calibrateComplete =>
    rcases guarded_next h with ⟨-, rfl⟩ | ⟨-, rfl⟩ <;> exact .inl rfl

/-- R240: with a command word to record, an instruction of the table raises its fault exactly on its condition. -/
theorem exec_eq_withFault_iff {w : Word} (hf : s.fault = none) (hw : s.hprog[s.hpc]? = some w) :
    exec i s = .next (s.withFault ⟨code, w⟩) ↔ Raises i code s := by
  refine ⟨fun h => ?_, fun h => (exec_of_raises h).trans (raiseFault_of_word hw code)⟩
  rcases fault_kept_or_raises h with hkept | ⟨code', hr⟩
  · exact nomatch hf.symm.trans hkept.symm
  · have hraised := (exec_of_raises hr).trans (raiseFault_of_word hw code')
    have hcode : (⟨code, w⟩ : FaultRecord) = ⟨code', w⟩ :=
      Option.some.inj (congrArg State.fault (Host.Outcome.next.inj (h.symm.trans hraised)))
    cases hcode
    exact hr

end

/-- Settles O17: the table as an equivalence; no row of it has ILLEGAL_COMMAND, which an illegal word raises. -/
theorem faultConditions : Obligations.FaultConditions := by
  refine ⟨⟨rfl, rfl, rfl, rfl, rfl, rfl, rfl⟩, fun s w hf hwait hw => ⟨fun h => ?_, fun ⟨e, he⟩ => ?_⟩,
    fun s i code w hf hw => exec_eq_withFault_iff hf hw, fun i s t h => exec_fault_cases h⟩
  · rw [exists_decode_error_iff]
    rintro ⟨i, hd⟩
    have hraises : Raises i .illegalCommand s :=
      (exec_eq_withFault_iff hf hw).1 ((hostStep_of_decoded hwait hw hd).symm.trans h)
    simp [Raises] at hraises
  · exact illegalWordsFault.2 s w e hwait hw he

end Sys2Proof.Machine
end

section
/-! Proofs about the order of the handlers (60_exceptions.md R244, R254, R287): TXH and the RX handlers write apart from
each other, and an inactive port leaves CALH the only handler. -/

namespace Sys2Proof.Machine

open Sys2Proof

section

variable {s a b : State} {c rx : Choice}

/-! ### TXH beside an RX handler (R244 (b)) -/

theorem txShift_of_moves_txh (h : Moves .txh s a) : a = txShift s := by
  rcases execTxh_next h.2 with ⟨-, e⟩ | ⟨hno, -⟩
  · exact e
  · exact absurd ((enabled_txh_iff s).1 h.1).2 (mt (txhEnabled_iff s).2 (Bool.eq_false_iff.1 hno))

/-- R152, R171: RXCAPH writes the fields of the receive engine and TXH those of the transmit engine. -/
theorem take_rxcaph_txShift (h : Moves .rxcaph s b) : take .rxcaph (txShift s) = .next (txShift b) := by
  have hen : rxcaphEnabled s = true := rxcaphEnabled_iff.2 ((enabled_rxcaph_iff s).1 h.1).2
  obtain rfl : rxCapture s = b := Host.Outcome.next.inj ((exec_rxcaph_of_enabled hen).symm.trans h.2)
  exact exec_rxcaph_of_enabled (s := txShift s) hen

/-- R152, R172, R173: so does RXSMPH, whether or not it ends a frame. -/
theorem take_rxsmph_txShift (h : Moves .rxsmph s b) : take .rxsmph (txShift s) = .next (txShift b) := by
  have hen : rxsmphEnabled (txShift s) = true := rxsmphEnabled_iff.2 ((enabled_rxsmph_iff s).1 h.1).2
  refine (exec_rxsmph_of_enabled hen).trans ?_
  rcases execRxsmph_next h.2 with ⟨hno, -⟩ | ⟨-, hi, rfl⟩ | ⟨-, hi, hf, rfl⟩ | ⟨-, hi, hf, hh, rfl⟩
  · exact absurd hen (Bool.eq_false_iff.1 hno)
  · exact rxSample_of_more (s := txShift s) hi
  · exact rxSample_of_full (s := txShift s) hi hf
  · exact rxSample_of_room (s := txShift s) hi hf hh

/-- R244 (b): each order of the two handlers leads to `txShift b`. -/
theorem txh_commutes_with_rx (hrx : rx = .rxcaph ∨ rx = .rxsmph) (ha : Moves .txh s a) (hb : Moves rx s b) :
    Moves rx a (txShift b) ∧ Moves .txh b (txShift b) := by
  obtain ⟨hcap, hsmp⟩ := rx_enabled_of_moves_txh ha
  obtain rfl := txShift_of_moves_txh ha
  have htx : enabled .txh b = true → Moves .txh b (txShift b) := fun hen =>
    ⟨hen, exec_txh_of_enabled ((txhEnabled_iff b).2 ((enabled_txh_iff b).1 hen).2)⟩
  rcases hrx with rfl | rfl
  · exact ⟨⟨hcap.trans hb.1, take_rxcaph_txShift hb⟩, htx ((txh_enabled_of_moves_rxcaph hb).trans ha.1)⟩
  · exact ⟨⟨hsmp.trans hb.1, take_rxsmph_txShift hb⟩, htx ((txh_enabled_of_moves_rxsmph hb).trans ha.1)⟩

/-! ### The handlers of an inactive port (R244 (d), R254, R287) -/

theorem calibrating_iff : calibrating s = true ↔ s.calState = .prime ∨ s.calState = .run := by
  simp [calibrating]

/-- R46, R213: CALH is the only handler that an inactive port can have. -/
theorem State.Inv.handler_of_inactive (h : s.Inv) (hp : s.pstate = .inactive) (hc : c ∈ handlers)
    (hen : enabled c s = true) : c = .calh := by
  cases c with
  | tick | env | host => simp [handlers] at hc
  | calh => rfl
  | txh => exact nomatch hp.symm.trans (h.active_of_txh hen)
  | rxcaph => exact absurd hp (h.open_of_rx (.inl hen))
  | rxsmph => exact absurd hp (h.open_of_rx (.inr hen))
  | holdh => exact nomatch hp.symm.trans ((enabled_holdh_iff s).1 hen).2.2.1

/-- R254: an inactive port with no calibration running is idle. -/
theorem State.Inv.not_urgent_of_idle (h : s.Inv) (hp : s.pstate = .inactive) (hcal : calibrating s = false) :
    urgent s = false := by
  simp [urgent_of_not_pending (h.not_pending_of_inactive hp), hp, calhEnabled, hcal]

/-- R190, R287: the host waits on CALIBRATE while the loop runs. -/
theorem State.Inv.hostEnabled_of_calibrating (h : s.Inv) (hcal : calibrating s = true) : hostEnabled s = false := by
  have hwait : s.hwait = .cal := (h.calibration hcal).2.1
  rw [Bool.eq_false_iff, Ne, hostEnabled_iff]
  rcases calibrating_iff.1 hcal with hst | hst <;> simp [hwait, hst]

/-- R244 (d), R287: while the loop runs only CALH, time and the inputs have a step. -/
theorem State.Inv.choice_of_calibrating (h : s.Inv) (hcal : calibrating s = true) (hen : enabled c s = true) :
    c = .tick ∨ (∃ line v, c = .env line v) ∨ c = .calh := by
  rcases choice_cases c with rfl | henv | rfl | hc
  · exact .inl rfl
  · exact .inr (.inl henv)
  · exact nomatch (h.hostEnabled_of_calibrating hcal).symm.trans ((enabled_host_iff s).1 hen).2
  · exact .inr (.inr (h.handler_of_inactive (h.calibration hcal).1 hc hen))

end

/-- Settles O49: the two orders meet, and HOLDH is alone, as CALH is. -/
theorem handlerOrder : Obligations.HandlerOrder := by
  refine ⟨fun s a b rx hrx ha hb => ⟨_, txh_commutes_with_rx hrx ha hb⟩, fun s h => ⟨?_, ?_, fun hst c hc => ?_⟩⟩
  · rintro ⟨hh, htx⟩
    exact nomatch h.holdh_alone hh (by decide) htx
  · rintro ⟨hh, hcap | hsmp⟩
    · exact nomatch h.holdh_alone hh (by decide) hcap
    · exact nomatch h.holdh_alone hh (by decide) hsmp
  · rw [Bool.eq_false_iff]
    intro hen
    rcases h.choice_of_calibrating (calibrating_iff.2 hst) hen with rfl | ⟨_, _, rfl⟩ | rfl <;> simp at hc

/-! ### Idle states (R254, R120) -/

theorem hostEnabled_of_done {s : State} (h : hostDone s = true) : hostEnabled s = false := by
  have hpc : s.hpc = s.hprog.length := by
    simp only [hostDone, Bool.and_eq_true, beq_iff_eq] at h
    exact h.1
  exact hostEnabled_of_no_word (by simp [hpc])

/-- R120, the two of its conditions that leave the host and the handlers without a step. -/
theorem done_and_not_urgent_of_quiescent {s : State} (h : quiescent s = true) :
    hostDone s = true ∧ urgent s = false := by
  simp only [quiescent, Bool.and_eq_true, Bool.not_eq_true'] at h
  obtain ⟨⟨⟨⟨⟨⟨hdone, -⟩, -⟩, -⟩, -⟩, hu⟩, -⟩ := h
  exact ⟨hdone, hu⟩

/-- Settles O50: an idle port stops the timer, and a quiescent state has no handler and no host step. -/
theorem idleStates : Obligations.IdleStates := by
  refine ⟨fun s h hp hprime hrun => ?_, fun s c hq hen => ?_⟩
  · have hcal : calibrating s = false := Bool.eq_false_iff.2 fun hc => (calibrating_iff.1 hc).elim hprime hrun
    have hu : urgent s = false := h.not_urgent_of_idle hp hcal
    refine ⟨fun c hc => Bool.eq_false_iff.2 fun hen => ?_, chan1Input s, ?_⟩
    · exact nomatch hu.symm.trans (urgent_of_handler hc hen)
    · exact (execTick_of_not_urgent hu).trans (congrArg _ (tickBody_of_stop (h.timerIdle hp hcal)))
  · obtain ⟨hdone, hu⟩ := done_and_not_urgent_of_quiescent hq
    rcases choice_cases c with rfl | henv | rfl | hc
    · exact .inl rfl
    · exact .inr henv
    · exact nomatch (hostEnabled_of_done hdone).symm.trans ((enabled_host_iff s).1 hen).2
    · exact nomatch hu.symm.trans (urgent_of_handler hc hen)

end Sys2Proof.Machine
end

section
/-! Proofs about a frame stalled by GIE 0 (60_exceptions.md R256 (a), 42_transmit.md R155, 70_reset_and_hazards.md
R282): the host has no step, so no EINT resumes the frame. -/

namespace Sys2Proof.Machine

open Sys2Proof

/-- `t` has the frame, the port and the host of `s` where `s` left them, with GIE 0 and the port active; the line is not
driven LO unless it was. -/
structure FrameStalled (s t : State) : Prop where
  masked : t.gie = false
  active : t.pstate = .active
  hprog : t.hprog = s.hprog
  hpc : t.hpc = s.hpc
  hwait : t.hwait = s.hwait
  fault : t.fault = s.fault
  txIe : t.txIe = s.txIe
  txsr : t.txsr = s.txsr
  line : s.txd ≠ .lo → t.txd ≠ .lo

section

variable {s t u : State} {c : Choice}

theorem FrameStalled.refl (hg : s.gie = false) (hp : s.pstate = .active) : FrameStalled s s :=
  ⟨hg, hp, rfl, rfl, rfl, rfl, rfl, rfl, id⟩

/-- R112, R152: of the steps that GIE 0 and an active port leave, a tick alone drives the line, and never LO. -/
theorem moves_keeps_tx (hg : s.gie = false) (hp : s.pstate = .active) (hc : c ≠ .host) (h : Moves c s t) :
    t.pstate = s.pstate ∧ t.txIe = s.txIe ∧ t.txsr = s.txsr ∧ (s.txd ≠ .lo → t.txd ≠ .lo) := by
  have hen := h.1
  cases c with
  | host => exact absurd rfl hc
  | txh | rxcaph | rxsmph => simp [enabled, txhEnabled, rxcaphEnabled, rxsmphEnabled, hg] at hen
  | holdh => simp [enabled, holdhEnabled, hp] at hen
  | env line v =>
    obtain ⟨_, _, rfl⟩ := moves_env h
    exact ⟨rfl, rfl, rfl, id⟩
  | calh =>
    obtain ⟨-, hport, hline, hie, hsr⟩ := calCapture_keeps_port s
    rcases execCalh_next h.2 with ⟨-, rfl⟩ | ⟨-, rfl⟩
    · exact ⟨hport, hie, hsr, fun hlo => hline ▸ hlo⟩
    · exact ⟨rfl, rfl, rfl, id⟩
  | tick =>
    obtain ⟨_, txd, _, _, _, _, e, -, htxd, -⟩ := tickBody_frame s
    rcases execTick_next h.2 with ⟨-, rfl⟩ | ⟨-, rfl⟩
    · exact ⟨rfl, rfl, rfl, id⟩
    · rw [e]
      refine ⟨rfl, rfl, rfl, fun hlo => ?_⟩
      rcases htxd with rfl | ⟨rfl, -⟩
      · exact hlo
      · exact nofun

theorem FrameStalled.moves (h : FrameStalled s t) (hc : c ≠ .host) (hm : Moves c t u) : FrameStalled s u := by
  obtain ⟨-, hgie, hprog, hpc, hwait, -, -, hfault⟩ := moves_keeps_host hm hc
  obtain ⟨hport, hie, hsr, hline⟩ := moves_keeps_tx h.masked h.active hc hm
  exact {
    masked := hgie.trans h.masked
    active := hport.trans h.active
    hprog := hprog.trans h.hprog
    hpc := hpc.trans h.hpc
    hwait := hwait.trans h.hwait
    fault := hfault.trans h.fault
    txIe := hie.trans h.txIe
    txsr := hsr.trans h.txsr
    line := hline ∘ h.line }

/-- R150, R211: whether a command is held depends on PSTATE and TX_IE alone. -/
theorem commandReady_congr (hp : t.pstate = s.pstate) (ht : t.txIe = s.txIe) (w : Word) :
    commandReady w t = commandReady w s := by
  rw [Bool.eq_iff_iff, commandReady_iff, commandReady_iff, hp, ht]

/-- R118, R150, R211: the host stays without a step; an active port ends no wait on SHUTDOWN. -/
theorem FrameStalled.hostEnabled_eq_false (h : FrameStalled s t) (hp : s.pstate = .active) (hcal : s.hwait ≠ .cal)
    (hready : s.hwait = .none → ∀ w, s.hprog[s.hpc]? = some w → commandReady w s = false) :
    hostEnabled t = false := by
  rw [Bool.eq_false_iff, Ne, hostEnabled_iff]
  rintro ⟨-, w, hw, ⟨hwait, hr⟩ | ⟨-, hclosed⟩ | ⟨hwait, -⟩⟩
  · rw [h.hprog, h.hpc] at hw
    rw [commandReady_congr (h.active.trans hp.symm) h.txIe] at hr
    exact nomatch (hready (h.hwait.symm.trans hwait) w hw).symm.trans hr
  · exact nomatch h.active.symm.trans hclosed
  · exact hcal (h.hwait.symm.trans hwait)

/-- R256 (a): no order of steps moves the frame or the host on. -/
theorem frameStalled_of_reaches {P : State → Choice → Prop} (hg : s.gie = false) (hp : s.pstate = .active)
    (hcal : s.hwait ≠ .cal) (hready : s.hwait = .none → ∀ w, s.hprog[s.hpc]? = some w → commandReady w s = false)
    (h : ReachesBy P s t) : FrameStalled s t := by
  induction h with
  | refl => exact .refl hg hp
  | tail c _ _ hm ih =>
    refine ih.moves ?_ hm
    rintro rfl
    exact nomatch (ih.hostEnabled_eq_false hp hcal hready).symm.trans ((enabled_host_iff _).1 hm.1).2

/-- R150, R211: SEND and SHUTDOWN are held while a frame is in flight. -/
theorem commandReady_of_frame {w : Word} (hp : s.pstate = .active) (ht : s.txIe = true)
    (hd : (∃ b, decode w = .ok (.send b)) ∨ decode w = .ok .shutdown) : commandReady w s = false := by
  rw [Bool.eq_false_iff, Ne, commandReady_iff]
  rintro ⟨hsend, hshut⟩
  rcases hd with hd | hd
  · exact hsend ⟨hd, hp, ht⟩
  · exact hshut ⟨hd, by simp [hp], ht⟩

end

/-- Settles O58: the host has no step, held at its command or by the premise that a tick may pass. -/
theorem maskedFrameHangsTheHost : Obligations.MaskedFrameHangsTheHost := by
  refine ⟨fun s w hf hwait hp ht hg hw hd => ?_, fun s hinv hm ht hg t h => ?_⟩
  · have hready : s.hwait = .none → ∀ w', s.hprog[s.hpc]? = some w' → commandReady w' s = false := by
      intro _ w' hw'
      obtain rfl : w = w' := Option.some.inj (hw.symm.trans hw')
      exact commandReady_of_frame hp ht hd
    have hstall {t : State} (h : ReachesBy (fun _ _ => True) s t) : FrameStalled s t :=
      frameStalled_of_reaches hg hp (hwait ▸ nofun) hready h
    refine ⟨⟨.inl (lt_length_of_getElem? hw), fun t h => ⟨(hstall h).hpc, (hstall h).fault.trans hf⟩⟩, fun t h => ?_⟩
    exact ⟨(hstall h).txsr, (hstall h).txIe.trans ht, (hstall h).line⟩
  · obtain ⟨hen, hfirst⟩ := (mayTake_iff _ _).1 hm
    obtain ⟨hf, hu⟩ := (enabled_tick_iff s).1 hen
    have hp : s.pstate = .active := (hinv.txBusy ht).1
    have hcal : s.hwait ≠ .cal := fun hw => nomatch hp.symm.trans (hinv.waitsCal hw).1
    have hready (hw : s.hwait = .none) (w : Word) (hword : s.hprog[s.hpc]? = some w) : commandReady w s = false := by
      rw [Bool.eq_false_iff]
      exact fun hr => nomatch (hfirst rfl).symm.trans ((hostEnabled_iff s).2 ⟨hu, w, hword, .inl ⟨hw, hr⟩⟩)
    have hstall : FrameStalled s t := frameStalled_of_reaches hg hp hcal hready h
    exact ⟨hstall.masked, hstall.txIe.trans ht, hstall.txsr, hstall.hpc, hstall.fault.trans hf, hstall.line⟩

end Sys2Proof.Machine
end

section
/-! Proofs about a calibration that never ends (60_exceptions.md R256 (b), (c), 44_calibration.md R195): while the loop
runs the host has no step, and only CALH can end the loop. -/

namespace Sys2Proof.Machine

open Sys2Proof

/-- In `t` the host still waits on the calibration loop that runs in `s`. -/
structure AwaitsLoop (s t : State) : Prop where
  inv : t.Inv
  loop : calibrating t = true
  cfg : t.cfg = s.cfg
  hpc : t.hpc = s.hpc
  fault : t.fault = none

section

variable {s t u : State} {c : Choice}

theorem AwaitsLoop.refl (h : s.Inv) (hf : s.fault = none) (hst : s.calState = .prime ∨ s.calState = .run) :
    AwaitsLoop s s := ⟨h, calibrating_iff.2 hst, rfl, rfl, hf⟩

/-- R191, R194: only CALH ends the loop. -/
theorem State.Inv.calibrating_of_moves (h : s.Inv) (hcal : calibrating s = true) (hc : c ≠ .calh) (hm : Moves c s t) :
    calibrating t = true := by
  rcases h.choice_of_calibrating hcal hm.1 with rfl | ⟨_, _, rfl⟩ | rfl
  · obtain ⟨_, _, _, _, _, _, _, _, _, _, rfl⟩ := timeOnly_of_moves_tick hm
    exact hcal
  · obtain ⟨_, _, rfl⟩ := moves_env hm
    exact hcal
  · exact absurd rfl hc

/-- R118, R241: as long as CALH does not end the loop, the host waits on without a step and without a fault. -/
theorem AwaitsLoop.moves (h : AwaitsLoop s t) (hm : Moves c t u) (hend : c = .calh → calibrating u = true) :
    AwaitsLoop s u := by
  have hhost : c ≠ .host := by
    rintro rfl
    exact nomatch (h.inv.hostEnabled_of_calibrating h.loop).symm.trans ((enabled_host_iff t).1 hm.1).2
  obtain ⟨hcfg, -, -, hpc, -, -, -, hfault⟩ := moves_keeps_host hm hhost
  exact {
    inv := moves_keeps_inv h.inv hm
    loop := if hc : c = .calh then hend hc else h.inv.calibrating_of_moves h.loop hc hm
    cfg := hcfg.trans h.cfg
    hpc := hpc.trans h.hpc
    fault := hfault.trans h.fault }

/-- R256: a host that waits on the loop in every state it can reach is stuck. -/
theorem stuckBy_of_awaitsLoop {P : State → Choice → Prop} (h : ∀ t, ReachesBy P s t → AwaitsLoop s t) :
    StuckBy P s := by
  have hs : AwaitsLoop s s := h s (.refl s)
  have hwait : s.hwait = .cal := (hs.inv.calibration hs.loop).2.1
  exact ⟨.inr (hwait ▸ nofun), fun t ht => ⟨(h t ht).hpc, (h t ht).fault⟩⟩

/-! ### A target that is never met (R256 (b)) -/

theorem calCapture_of_moves_calh (hm : Moves .calh s t) : t = calCapture s := by
  rcases execCalh_next hm.2 with ⟨-, e⟩ | ⟨hno, -⟩
  · exact e
  · exact absurd ((enabled_calh_iff s).1 hm.1).2 (mt calhEnabled_iff.2 (Bool.eq_false_iff.1 hno))

/-- R191, R195: without a bound, the priming capture and a measurement off the target leave the loop running. -/
theorem State.Inv.calibrating_of_missed (h : s.Inv) (hb : s.cfg.calMaxIter = none) (hm : Moves .calh s t)
    (hoff : neverOnTarget s .calh) : calibrating t = true := by
  obtain rfl := calCapture_of_moves_calh hm
  rcases ((enabled_calh_iff s).1 hm.1).2.2 with hst | hst
  · rw [calCapture_of_prime hst]
    rfl
  · obtain ⟨last, hlast⟩ := Option.isSome_iff_exists.1 (h.captured hst)
    have hd : s.delta ≠ s.cfg.targetDelta := by
      rw [State.delta, prevCapture_of_some hlast]
      exact hoff rfl hst last hlast
    have hnb : boundReached (s.measured.retune s.delta) = false :=
      boundReached_eq_false.2 fun n hn => nomatch hb.symm.trans hn
    rw [calCapture_of_missed (hst ▸ nofun) hd hnb]
    exact calibrating_iff.2 (.inr hst)

/-! ### A reference without a rising edge (R256 (c)) -/

/-- R111, R113: the loop captures rising edges of REF, so a tick that sees none makes no capture pending. -/
theorem State.Inv.no_capture_of_tick (h : s.Inv) (hcal : calibrating s = true) (hi : s.ifg1 = false)
    (hno : ¬(s.prev1 = false ∧ s.refIn = true)) :
    (Machine.tickBody s).ifg1 = false ∧ (Machine.tickBody s).prev1 = s.refIn := by
  obtain ⟨-, -, href, -, hcap, hedge, hcont⟩ := h.calibration hcal
  have hline : chan1Input s = s.refIn := by simp [chan1Input_eq, href]
  have hunseen : edgeSeen s s.refIn = false := by
    rw [Bool.eq_false_iff, Ne, edgeSeen_iff]
    simpa [hedge] using hno
  simp [tickBody_of_cont hcont, hline, hcap, hi, hunseen]

theorem tickBody_of_moves_tick (hm : Moves .tick s t) : t = tickBody s := by
  rcases execTick_next hm.2 with ⟨hu, -⟩ | ⟨-, e⟩
  · exact nomatch hu.symm.trans ((enabled_tick_iff s).1 hm.1).2
  · exact e

/-- R256 (c): without an edge seen, no capture is ever pending, and so CALH never runs. -/
theorem awaitsLoop_of_noRisingRef (hs : AwaitsLoop s s) (hi : s.ifg1 = false) (h : ReachesBy noRisingRef s t) :
    AwaitsLoop s t ∧ t.ifg1 = false := by
  induction h with
  | refl => exact ⟨hs, hi⟩
  | tail c _ hp hm ih =>
    obtain ⟨hw, hflag⟩ := ih
    have hcalh : c ≠ .calh := by
      rintro rfl
      exact nomatch hflag.symm.trans ((enabled_calh_iff _).1 hm.1).2.1
    refine ⟨hw.moves hm fun hc => absurd hc hcalh, ?_⟩
    rcases hw.inv.choice_of_calibrating hw.loop hm.1 with rfl | ⟨_, _, rfl⟩ | rfl
    · exact tickBody_of_moves_tick hm ▸ (hw.inv.no_capture_of_tick hw.loop hflag (hp rfl)).1
    · obtain ⟨_, _, rfl⟩ := moves_env hm
      exact hflag
    · exact absurd rfl hcalh

/-- R117, R256 (c): an input that is never raised, and is low or was seen high, gives no tick an edge to see. -/
theorem noRisingRef_of_neverRaisesRef (hs : AwaitsLoop s s) (hi : s.ifg1 = false)
    (hseen : s.refIn = true → s.prev1 = true) (h : ReachesBy neverRaisesRef s t) :
    ReachesBy noRisingRef s t ∧ (t.refIn = true → t.prev1 = true) := by
  induction h with
  | refl => exact ⟨.refl s, hseen⟩
  | @tail t u c _ hp hm ih =>
    obtain ⟨hr, hprev⟩ := ih
    have hno : ¬(t.prev1 = false ∧ t.refIn = true) := fun ⟨h0, h1⟩ => nomatch h0.symm.trans (hprev h1)
    obtain ⟨hw, hflag⟩ := awaitsLoop_of_noRisingRef hs hi hr
    refine ⟨.tail c hr (fun _ => hno) hm, ?_⟩
    rcases hw.inv.choice_of_calibrating hw.loop hm.1 with rfl | ⟨line, v, rfl⟩ | rfl
    · obtain rfl := tickBody_of_moves_tick hm
      intro h1
      obtain ⟨_, hprev1⟩ := hw.inv.no_capture_of_tick hw.loop hflag hno
      obtain ⟨_, _, _, _, _, _, e, -⟩ := tickBody_frame t
      rw [e] at h1
      exact hprev1.trans h1
    · rcases execEnv_next hm.2 with ⟨-, rfl⟩ | ⟨rfl, rfl⟩
      · exact hprev
      · rintro rfl
        exact hprev (hp rfl)
    · exact nomatch hflag.symm.trans ((enabled_calh_iff _).1 hm.1).2.1

end

/-- Settles O59: no CALH ends the loop, and no other step can. -/
theorem unreachableTargetHangsTheHost : Obligations.UnreachableTargetHangsTheHost := by
  intro s h hf hst hb
  refine stuckBy_of_awaitsLoop fun t ht => ?_
  induction ht with
  | refl => exact .refl h hf hst
  | tail c _ hp hm ih =>
    refine ih.moves hm ?_
    rintro rfl
    exact ih.inv.calibrating_of_missed (ih.cfg ▸ hb) hm hp

/-- Settles O60: no capture is ever pending; the condition on the input implies the one on what ticks see. -/
theorem deadReferenceHangsTheHost : Obligations.DeadReferenceHangsTheHost := by
  intro s h hf hst hi
  have hs : AwaitsLoop s s := .refl h hf hst
  refine ⟨stuckBy_of_awaitsLoop fun t ht => ?_, fun hseen => stuckBy_of_awaitsLoop fun t ht => ?_⟩
  · exact (awaitsLoop_of_noRisingRef hs hi ht).1
  · exact (awaitsLoop_of_noRisingRef hs hi (noRisingRef_of_neverRaisesRef hs hi hseen ht).1).1

end Sys2Proof.Machine
end

section
/-! Proofs about the launch state (70_reset_and_hazards.md R270). -/

namespace Sys2Proof.Machine

open Sys2Proof

/-- R41: in a storage without a listed slot, no slot holds a value. -/
@[simp] theorem Memory.read_nil (i : Nat) : Memory.read i [] = none := rfl

/-- Settles O7: `State.launch` gives every element its row of R270's table, and its storage lists no slot. -/
theorem launchState : Obligations.LaunchState := by
  intro c p r f
  refine ⟨_, rfl, ?_⟩
  simp only [State.launch, Memory.read_nil, implies_true, and_self]

end Sys2Proof.Machine
end
